-- ==== Sys2Proof/Word.lean ====
section
/-! DEFINITION. The word types of the block (00_scope.md rule R8: the types are `u32`, `u64` and `u128`, all unsigned,
bit 0 the least significant). Their arithmetic is `BitVec`'s own, modulo 2^N (rules R9, R10). -/

namespace Sys2Proof

/-- `u32`: the width of a base output (`OUT32`, rule R7). -/
abbrev Word32 := BitVec 32

/-- `u64`: the width `W` of a generator state word and of every interface register (rules R7, R33). -/
abbrev Word := BitVec 64

/-- `u128`: the 128-bit view of the composite state (rule R17). -/
abbrev Word128 := BitVec 128

/-- `u128(hi, lo)` of rule R10: `hi * 2^64 + lo`. -/
def u128 (hi lo : Word) : Word128 := hi ++ lo

end Sys2Proof
end

