-- ==== Sys2Proof/Config.lean ====
section
/-! DEFINITION. The parameters 00_scope.md rule R7 marks OPEN, and the free values: constants WITHOUT a body, so that no
proof can lean on a value of theirs. Parameters to which the spec gives a value (`MULT64`, `CHEAP_MUL`, `HQ_XSH1`,
`HQ_XSH2`, `BOUNDED64_SOURCE`) stand in Sys2Proof/Machine/Params.lean. -/

namespace Sys2Proof

/-- The two ways a byte-addressed platform can lay a register's bytes out (20_memory.md rule R35). -/
inductive ByteOrder where
  | little
  | big
deriving DecidableEq, Repr, Inhabited

namespace Config

/-- `MUL128` (rules R7, R87; D6): OPEN. Log entry 1. -/
opaque mul128 : Word128

/-- `INC128` (rules R7, R87; D6): OPEN. Log entry 1. -/
opaque inc128 : Word128

/-- `RESET_G_STATE` (rules R7, R30, R124; D7): OPEN. Log entry 2. -/
opaque resetGState : Word

/-- The bits of `RESET_G_INC` above bit 0, which rule R124 forces to 1. Log entry 2. -/
opaque resetGSeq : Word

/-- `RESET_H_STATE`: OPEN. Log entry 2. -/
opaque resetHState : Word

/-- The bits of `RESET_H_INC` above bit 0. Log entry 2. -/
opaque resetHSeq : Word

/-- `RESET_L_STATE`: OPEN. Log entry 2. -/
opaque resetLState : Word

/-- The bits of `RESET_L_INC` above bit 0. Log entry 2. -/
opaque resetLSeq : Word

/-- `RESET_G_INC`: any odd word (rule R124), since `resetGSeq` is any word. -/
def resetGInc : Word := (resetGSeq <<< 1) ||| 1

/-- `RESET_H_INC`: any odd word (rule R124). -/
def resetHInc : Word := (resetHSeq <<< 1) ||| 1

/-- `RESET_L_INC`: any odd word (rule R124). -/
def resetLInc : Word := (resetLSeq <<< 1) ||| 1

/-- FREE VALUE. "any u64" of 20_memory.md rule R39 (93_implementation_defined.md I2): the value the `n`-th read of a
result or state register while `BUSY = 1` returns, "a fresh draw for each read, under no law". Log entry 3. -/
opaque freeRead : Nat → Word

/-- `HOST_BASE` (rules R32, R118; I17): OPEN; no rule depends on it. Log entry 4. -/
opaque hostBase : Nat

/-- `HOST_BYTE_ORDER` (rule R35; D5): OPEN; no rule depends on it. Log entry 4. -/
opaque hostByteOrder : ByteOrder

end Config

end Sys2Proof
end

