-- ==== Sys2Proof/Machine/Params.lean ====
section
/-! DEFINITION. The parameters to which the spec gives a value (00_scope.md rule R7), and how many draws the rejection loops
are given before a loop that has accepted none is known never to accept one. -/

namespace Sys2Proof.Machine

/-- `MULT64` (rule R7, source value). -/
def mult64 : Word := 0x5851f42d4c957f2d

/-- `CHEAP_MUL` (rule R7, source value). -/
def cheapMul : Word := 0xda942042e4dd58b5

/-- `HQ_XSH1` (rule R7, source value; 93_implementation_defined.md I6). -/
def hqXsh1 : Nat := 22

/-- `HQ_XSH2` (rule R7, source value). -/
def hqXsh2 : Nat := 48

/-- The two draws `C64_BOUNDED` can be built with (rule R7, `BOUNDED64_SOURCE`). -/
inductive DrawSource where
  /-- The draw of `C64_NEXT`. -/
  | combined
  /-- The draw of `C64_HQ64`. -/
  | hq
deriving DecidableEq, Repr

/-- `BOUNDED64_SOURCE`: the value rule R7 and D9 give it. Log entry 10. -/
def bounded64Source : DrawSource := .combined

/-- A base generator has 2^64 state words: after that many draws every one its orbit visits has been drawn from, so a loop
that accepted none of them never ends (40_base_generator.md rule R83). Log entry 7. -/
def drawLimit32 : Nat := 2 ^ 64

/-- The two state words of the composite have 2^128 values: the same for `C64_BOUNDED` (41_composite_generator.md rule
R102, 93_implementation_defined.md I3). Log entry 7. -/
def drawLimit64 : Nat := 2 ^ 128

end Sys2Proof.Machine
end

