-- ==== Sys2Proof/Machine/Functions.lean ====
section
/-! DEFINITION. The functions of 40_base_generator.md section 1 and 41_composite_generator.md section 1: pure functions of
words, from which every command's meaning is put together. Where the spec gives a normative definition and a computation
of the same result, both stand here; the meanings use one, and the laws say the two agree. -/

namespace Sys2Proof.Machine

/-- `lcg64` (rule R66): one step of the LCG, `s * MULT64 + inc` modulo 2^64. The literal factor stands first, here and in
`perm64`: the kernel computes a product by recursion on its second factor, and must not start on a literal. -/
def lcg64 (s inc : Word) : Word := mult64 * s + inc

/-- `rotr32` by the source's formula (00_scope.md rule R10). -/
def rotr32 (x r : Word32) : Word32 := (x >>> r) ||| (x <<< ((32 - r) &&& 31))

/-- `xshrr` (rule R67): the XSH-RR output of the state BEFORE the step. -/
def xshrr (old : Word) : Word32 :=
  rotr32 ((((old >>> 18) ^^^ old) >>> 27).setWidth 32) ((old >>> 59).setWidth 32)

/-- `next32` (rule R68): the output, and the new state. -/
def next32 (s inc : Word) : Word32 × Word := (xshrr s, lcg64 s inc)

/-- `lcg64^n` (rule R70): `n` steps with the same increment, one after the other. -/
def lcgSteps (inc : Word) : Nat → Word → Word
  | 0, s => s
  | n + 1, s => lcgSteps inc n (lcg64 s inc)

/-- The loop of rule R71, one round per bit of `delta`, as the pair `(acc_mult, acc_plus)` it ends with; the first
argument counts the rounds left, and 64 are enough. -/
def jumpLoop : Nat → (delta curMult curPlus accMult accPlus : Word) → Word × Word
  | 0, _, _, _, accMult, accPlus => (accMult, accPlus)
  | n + 1, delta, curMult, curPlus, accMult, accPlus =>
    if delta = 0 then (accMult, accPlus)
    else if delta.getLsbD 0 then
      jumpLoop n (delta >>> 1) (curMult * curMult) ((curMult + 1) * curPlus)
        (accMult * curMult) (accPlus * curMult + curPlus)
    else
      jumpLoop n (delta >>> 1) (curMult * curMult) ((curMult + 1) * curPlus) accMult accPlus

/-- `jump64` (rule R70), computed as `jump64_alg` of rule R71. -/
def jump64 (s delta inc : Word) : Word :=
  let acc := jumpLoop 64 delta mult64 inc 1 0
  acc.1 * s + acc.2

/-- `jumpback64` (rule R72): a jump by the two's complement of `delta`. -/
def jumpback64 (s delta inc : Word) : Word := jump64 s (-delta) inc

/-- `thresholdN` (rule R73), in the form the source calls equivalent: `(-bound) mod bound`. -/
def threshold {n : Nat} (bound : BitVec n) : BitVec n := (-bound) % bound

/-- The rejection loop of rules R74 and R96 over any draw, given `k` draws: the first draw `r` with `r ≥ thr`, reduced
modulo `bound`, with the state after it; `none` when none of the `k` draws is accepted. -/
def rejectionLoop {n : Nat} {σ : Type} (draw : σ → BitVec n × σ) (thr bound : BitVec n) :
    Nat → σ → Option (BitVec n × σ)
  | 0, _ => none
  | k + 1, s =>
    if thr ≤ (draw s).1 then some ((draw s).1 % bound, (draw s).2)
    else rejectionLoop draw thr bound k (draw s).2

/-- The bounded sampler over any draw (rules R74, R96): no draw for bound 0, else the rejection loop. -/
def bounded {n : Nat} {σ : Type} (draw : σ → BitVec n × σ) (limit : Nat) (bound : BitVec n) (s : σ) :
    Option (BitVec n × σ) :=
  if bound = 0 then some (0, s) else rejectionLoop draw (threshold bound) bound limit s

/-- `bounded32` (rule R74): the value and the new state word; `none` exactly when the loop never accepts. -/
def bounded32 (s inc : Word) (bound : Word32) : Option (Word32 × Word) :=
  bounded (fun w => next32 w inc) drawLimit32 bound s

/-- The increment a sequence selector gives (rules R76, R92): `(sequence << 1) | 1`. -/
def seedInc (sequence : Word) : Word := (sequence <<< 1) ||| 1

/-- The state word a seed gives with an increment (rules R76, R92). -/
def seedState (seed inc : Word) : Word := lcg64 (seed + inc) inc

/-- `MASK63` of rule R92. -/
def mask63 : Word := 0x7fffffffffffffff

/-- The adjusted second sequence of rule R92: complemented when bits 62:0 equal those of the first (90_conflicts.md C1). -/
def adjustSeq (seqHi seqLo : Word) : Word :=
  if seqLo &&& mask63 = seqHi &&& mask63 then ~~~seqLo else seqLo

/-- `step128` (rule R88): one step of the 128-bit LCG with the given constants; the new high and low words. -/
def step128With (mul inc : Word128) (h l : Word) : Word × Word :=
  let s := u128 h l * mul + inc
  (s.extractLsb' 64 64, s.extractLsb' 0 64)

/-- `step128` with the block's own `MUL128` and `INC128` (rules R87, R88). -/
def step128 (h l : Word) : Word × Word := step128With Config.mul128 Config.inc128 h l

/-- `mul64x128` (00_scope.md rule R10): the exact product of two words, as its high and low words. -/
def mul64x128 (a b : Word) : Word × Word :=
  let p := a.setWidth 128 * b.setWidth 128
  (p.extractLsb' 64 64, p.extractLsb' 0 64)

/-- `mul64x128` from 32-bit halves with explicit carries (rule R89, "decompose each 64-bit operand into 32-bit halves and
combine partial products with explicit carry tracking"). -/
def mul64x128Halves (a b : Word) : Word × Word :=
  let half (x : Word) : Word := x &&& 0xffffffff
  let ll := half a * half b
  let hl := (a >>> 32) * half b
  let lh := half a * (b >>> 32)
  let hh := (a >>> 32) * (b >>> 32)
  let mid := hl + (ll >>> 32)
  let mid' := lh + half mid
  (hh + (mid >>> 32) + (mid' >>> 32), (mid' <<< 32) ||| half ll)

/-- `step128_words` (rule R89) over a 64×64→128 multiplier: the extended-precision multiply-add, word by word. -/
def step128Words (mulWide : Word → Word → Word × Word) (mul inc : Word128) (h l : Word) : Word × Word :=
  let mulHi := mul.extractLsb' 64 64
  let mulLo := mul.extractLsb' 0 64
  let incHi := inc.extractLsb' 64 64
  let incLo := inc.extractLsb' 0 64
  let p := mulWide l mulLo
  let ph := p.1 + h * mulLo + l * mulHi
  let nl := p.2 + incLo
  let carry : Word := if 2 ^ 64 ≤ p.2.toNat + incLo.toNat then 1 else 0
  (ph + incHi + carry, nl)

/-- `perm64` (rule R90): the 64-bit output permutation, on copies of the post-step words. -/
def perm64 (h l : Word) : Word :=
  let h1 := h ^^^ (h >>> hqXsh1)
  let h2 := cheapMul * h1
  let h3 := h2 ^^^ (h2 >>> hqXsh2)
  h3 * (l ||| 1)

/-- The fast-path draw (rule R93) on the two state words `(hi, lo)`: the high half's 32-bit draw above the low half's. -/
def drawCombined (hiInc loInc : Word) (s : Word × Word) : Word × (Word × Word) :=
  let h := next32 s.1 hiInc
  let l := next32 s.2 loInc
  ((h.1.setWidth 64 <<< 32) ||| l.1.setWidth 64, (h.2, l.2))

/-- The quality-path draw (rule R95) on the two state words `(hi, lo)`. -/
def drawHq (s : Word × Word) : Word × (Word × Word) :=
  let n := step128 s.1 s.2
  (perm64 n.1 n.2, n)

/-- `draw64` of rule R96: the draw that `BOUNDED64_SOURCE` selects. -/
def draw64 (src : DrawSource) (hiInc loInc : Word) (s : Word × Word) : Word × (Word × Word) :=
  match src with
  | .combined => drawCombined hiInc loInc s
  | .hq => drawHq s

end Sys2Proof.Machine
end

