-- ==== Sys2Proof/Syntax.lean ====
section
/-! DEFINITION. The syntax: the fourteen commands (30_encoding.md rule R56), the fourteen registers of the host window
(20_memory.md rule R33), the host's bus operations and assembly (30_encoding.md rules R63, R64), and the turns by which
the host, the block and the platform's reset interleave (20_memory.md rule R41, 70_reset_and_hazards.md rule R123). -/

namespace Sys2Proof

/-- The commands of the block: one constructor per row of spec/opcode_table.json. A command word holds no operand
(30_encoding.md rules R53, R62): operands are the registers `ARG0`..`ARG3`. -/
inductive Instr where
  | g32Seed
  | g32Next
  | g32Bounded
  | g32Jump
  | g32JumpBack
  | g32Load
  | c64Seed
  | c64Next
  | c64Bounded
  | c64Jump
  | c64JumpBack
  | c64Load
  | c64Step128
  | c64Hq64
deriving DecidableEq, Repr

/-- The registers of the host window (20_memory.md rule R33), in the order of their offsets. -/
inductive Reg where
  | cmd
  | status
  | arg0
  | arg1
  | arg2
  | arg3
  | res0
  | res1
  | gState
  | gInc
  | hState
  | hInc
  | lState
  | lInc
deriving DecidableEq, Repr

/-- One statement the host performs on the bus. A `read` or `write` is one access of `width` bits at byte offset `off`
of the window; only those of rule R34 are defined. `poll` (rule R63) repeats a read of `STATUS` until `BUSY` reads 0. -/
inductive HostOp where
  | write (width off : Nat) (v : Word)
  | read (width off : Nat)
  | poll
deriving DecidableEq, Repr

/-- Who moves next. `host`: the host's next bus access takes effect. `block`: the BLOCK agent's step (rule R45).
`reset`: the platform applies reset, one atomic event (rule R123). `hostInReset`: the host issues its next access while
reset is applied, which rule R123 puts outside the interface. -/
inductive Turn where
  | host
  | block
  | reset
  | hostInReset
deriving DecidableEq, Repr

/-- The statements of the assembly (30_encoding.md rules R63, R64): the three plain ones, and the pseudo-instructions,
one per command plus `clrerr`. -/
inductive Stmt where
  | wr (r : Reg) (v : Word)
  | rd (r : Reg)
  | poll
  | g32Seed (s q : Word)
  | g32Next
  | g32Bounded (b : Word)
  | g32Jump (d : Word)
  | g32JumpBack (d : Word)
  | g32Load (s : Word)
  | c64Seed (sh sl qh ql : Word)
  | c64Next
  | c64Bounded (b : Word)
  | c64Jump (d : Word)
  | c64JumpBack (d : Word)
  | c64Load (h l : Word)
  | c64Step128
  | c64Hq64
  | clrerr
deriving DecidableEq, Repr

/-- One bus transaction of an encoded host program (30_encoding.md rule R65): `W <offset> <value>`, `R <offset>`, or the
repeated `R 0x08` of a `poll`. -/
inductive Transaction where
  | w (off : Nat) (v : Word)
  | r (off : Nat)
  | rPoll
deriving DecidableEq, Repr

end Sys2Proof
end

