-- ==== Sys2Proof/Machine/State.lean ====
section
/-! DEFINITION. The state of one block (10_state.md rule R13: exactly this and nothing else), beside it the state of the
agents around it (the host's remaining statements and what its reads returned, the turns that fix the interleaving), and
the reasons a step can stop. State is plain data. -/

namespace Sys2Proof.Machine

/-- The source's `GeneratorState` (10_state.md rules R14, R15): a state word and an increment. -/
structure Gen where
  /-- The LCG state word. -/
  state : Word
  /-- The LCG increment. -/
  inc : Word
deriving DecidableEq, Repr

/-- The source's `CompositeState` (rule R16): two halves, held by value (rule R19). -/
structure Comp where
  /-- The high half. -/
  hi : Gen
  /-- The low half. -/
  lo : Gen
deriving DecidableEq, Repr

/-- The stored fields of `STATUS` (rule R24). `BUSY` is not stored: it is 1 exactly when `pending` holds a command
(rule R28); the reserved bits read as 0 and keep nothing. -/
structure Status where
  /-- Bit 1, `ERR`. -/
  err : Bool
  /-- Bits 15:8, `ERRCODE`. -/
  errcode : BitVec 8
deriving DecidableEq, Repr

/-- The two interface errors (60_exceptions.md rule R105). -/
inductive ErrorCode where
  /-- A write to `CMD` of an illegal word while `BUSY = 0` (rule R107). -/
  | illegalCmd
  /-- A write to `CMD` or `ARG0`..`ARG3` while `BUSY = 1` (rule R108). -/
  | busyWrite
deriving DecidableEq, Repr

/-- The machine: the block's registers (rule R13), then the agents around it. -/
structure State where
  /-- `G`: the base generator. -/
  g : Gen
  /-- `C`: the composite generator. -/
  c : Comp
  /-- `CMD`: the last command word accepted, 0 if none since reset (rule R23). -/
  cmd : Word
  /-- `STATUS.ERR` and `STATUS.ERRCODE` (rule R24). -/
  status : Status
  /-- `ARG0` (rule R25). -/
  arg0 : Word
  /-- `ARG1` (rule R25). -/
  arg1 : Word
  /-- `ARG2` (rule R25). -/
  arg2 : Word
  /-- `ARG3` (rule R25). -/
  arg3 : Word
  /-- `RES0` (rule R26). -/
  res0 : Word
  /-- `RES1` (rule R26). -/
  res1 : Word
  /-- `pending`: the accepted, not yet executed command word, or none (rule R28). -/
  pending : Option Word
  /-- The HOST agent's statements still to come, first one first (30_encoding.md rule R63). -/
  program : List HostOp
  /-- The interleaving still to come (20_memory.md rule R41), next turn first. Log entry 5. -/
  turns : List Turn
  /-- What the host's `rd` statements returned, latest first: the host's record, not the block's. Log entry 6. -/
  reads : List Word
  /-- How many free values reads have drawn so far: the model's own counter. Log entry 3. -/
  fresh : Nat
deriving DecidableEq, Repr

/-- Why the machine stops with a fault. -/
inductive Fault where
  /-- Raised by the BLOCK step of `G32_BOUNDED` or `C64_BOUNDED` when the rejection loop accepts no draw at all, however
  often it draws: `stuck` of 93_implementation_defined.md I3. Safe. Log entry 7. -/
  | samplerStuck
  /-- Raised by the BLOCK step when `pending` holds an illegal word, which no run reaches: `HostWrite` accepts only legal
  words (20_memory.md rule R40), so the spec gives no step here. Safe. Log entry 8. -/
  | illegalPending
deriving DecidableEq, Repr

/-- Why a step is refused. -/
inductive Refusal where
  /-- Raised by `exec` for an instruction that has no meaning yet; safe. -/
  | notModelled (mnemonic : String)
  /-- Raised by the host's turn for an access of another width than 64 bits, at an offset that is no multiple of 8, or at
  or above 0x70: 20_memory.md rule R34 gives it no meaning and refuses it. Safe. -/
  | undefinedAccess
  /-- Raised by a host access issued while reset is applied: 70_reset_and_hazards.md rule R123 refuses it. Safe. -/
  | accessDuringReset
deriving DecidableEq, Repr

/-- The machine right after reset (10_state.md rule R30): the generator registers at the OPEN parameters (log entry 2),
every interface register 0, no command pending; the host has no statement yet and no turn is fixed (log entries 5, 6, 9). -/
def State.reset : State where
  g := ⟨Config.resetGState, Config.resetGInc⟩
  c := ⟨⟨Config.resetHState, Config.resetHInc⟩, ⟨Config.resetLState, Config.resetLInc⟩⟩
  cmd := 0
  status := ⟨false, 0⟩
  arg0 := 0
  arg1 := 0
  arg2 := 0
  arg3 := 0
  res0 := 0
  res1 := 0
  pending := none
  program := []
  turns := []
  reads := []
  fresh := 0

end Sys2Proof.Machine
end

