-- ==== Sys2Proof/Machine/Operands.lean ====
section
/-! DEFINITION. The operands of the commands (30_encoding.md rule R61): whole operand registers, used unsigned, but for the
32-bit bound of `G32_BOUNDED`, which is `ARG0[31:0]` (rule R62, D10). Each has the name the spec gives it. -/

namespace Sys2Proof.Machine

/-- `seed` of `G32_SEED`. -/
def State.opSeed (s : State) : Word := s.arg0

/-- `sequence` of `G32_SEED`. -/
def State.opSequence (s : State) : Word := s.arg1

/-- `bound` of `G32_BOUNDED`: `ARG0[31:0]`; `ARG0[63:32]` is ignored. -/
def State.opBound32 (s : State) : Word32 := s.arg0.setWidth 32

/-- `delta` of the four jump commands. -/
def State.opDelta (s : State) : Word := s.arg0

/-- `state` of `G32_LOAD`. -/
def State.opState (s : State) : Word := s.arg0

/-- `seed_hi` of `C64_SEED`. -/
def State.opSeedHi (s : State) : Word := s.arg0

/-- `seed_lo` of `C64_SEED`. -/
def State.opSeedLo (s : State) : Word := s.arg1

/-- `seq_hi` of `C64_SEED`. -/
def State.opSeqHi (s : State) : Word := s.arg2

/-- `seq_lo` of `C64_SEED`. -/
def State.opSeqLo (s : State) : Word := s.arg3

/-- `bound` of `C64_BOUNDED`. -/
def State.opBound64 (s : State) : Word := s.arg0

/-- `hi_state` of `C64_LOAD`. -/
def State.opHiState (s : State) : Word := s.arg0

/-- `lo_state` of `C64_LOAD`. -/
def State.opLoState (s : State) : Word := s.arg1

end Sys2Proof.Machine
end

