-- ==== Sys2Proof/Machine/Flags.lean ====
section
/-! DEFINITION. The flags: `STATUS.BUSY`, `STATUS.ERR` and `STATUS.ERRCODE` (10_state.md rules R24, R27, R28). They are the
block's only flags: no command writes one as a side effect. -/

namespace Sys2Proof.Machine

/-- The recorded code of an error (60_exceptions.md rule R105). -/
def ErrorCode.code : ErrorCode → BitVec 8
  | .illegalCmd => 0x01
  | .busyWrite => 0x02

/-- `STATUS.BUSY`: 1 exactly when a command is pending (10_state.md rule R28). -/
def State.busy (s : State) : Bool := s.pending.isSome

/-- The word a read of `STATUS` returns (20_memory.md rule R39): ERRCODE in 15:8, ERR in bit 1, BUSY in bit 0. -/
def State.statusWord (s : State) : Word :=
  (s.status.errcode.setWidth 64 <<< 8) ||| ((BitVec.ofBool s.status.err).setWidth 64 <<< 1)
    ||| (BitVec.ofBool s.busy).setWidth 64

/-- Bit 1 of a word written to `STATUS`: set, it clears `ERR` and `ERRCODE` (10_state.md rule R24). -/
def clearsError (v : Word) : Bool := v.getLsbD 1

end Sys2Proof.Machine
end

