-- ==== Sys2Proof/Machine/Ops.lean ====
section
/-! DEFINITION. The named operations over the registers. The block has no memory (20_memory.md rule R31) and no trap
(60_exceptions.md rule R104): its one "exception" is the recording of an interface error in `STATUS` (rule R106), and the
"return" from it is the host's write-1-to-clear (rule R114). -/

namespace Sys2Proof.Machine

/-- `G.state <- w`. -/
def State.writeGState (s : State) (w : Word) : State := { s with g := { s.g with state := w } }

/-- `G.inc <- inc; G.state <- w`. -/
def State.writeG (s : State) (w inc : Word) : State := { s with g := ⟨w, inc⟩ }

/-- `C.hi.state <- h; C.lo.state <- l` (the increments stay). -/
def State.writeHL (s : State) (h l : Word) : State :=
  { s with c := ⟨{ s.c.hi with state := h }, { s.c.lo with state := l }⟩ }

/-- Both halves of `C`, states and increments. -/
def State.writeC (s : State) (hi lo : Gen) : State := { s with c := ⟨hi, lo⟩ }

/-- `RES0 <- v`. -/
def State.writeRes0 (s : State) (v : Word) : State := { s with res0 := v }

/-- `RES1 <- v`. -/
def State.writeRes1 (s : State) (v : Word) : State := { s with res1 := v }

/-- `RES0 <- zext64(v)` for a `u32` result (30_encoding.md rule R62). -/
def State.writeRes32 (s : State) (v : Word32) : State := s.writeRes0 (v.setWidth 64)

/-- `CMD <- v; pending <- v`: a legal command is accepted (20_memory.md rule R40). -/
def State.accept (s : State) (v : Word) : State := { s with cmd := v, pending := some v }

/-- `pending <- none`: the command has been executed (20_memory.md rule R45). -/
def State.complete (s : State) : State := { s with pending := none }

/-- `error(code)` (60_exceptions.md rule R106): the first error since the last clear is recorded, a later one changes
nothing; control is never transferred (rules R104, R113). -/
def State.recordError (s : State) (e : ErrorCode) : State :=
  if s.status.err then s else { s with status := ⟨true, e.code⟩ }

/-- `STATUS.ERR <- 0; STATUS.ERRCODE <- 0` (20_memory.md rule R40, 60_exceptions.md rule R114). -/
def State.clearError (s : State) : State := { s with status := ⟨false, 0⟩ }

/-- Reset (70_reset_and_hazards.md rule R123): every piece of the block's state takes its reset value, a pending command is
discarded; the host's program, the turns to come, the host's record and the model's counter are not the block's. -/
def State.applyReset (s : State) : State :=
  { State.reset with program := s.program, turns := s.turns, reads := s.reads, fresh := s.fresh }

/-- A sampler's answer written back, or the named fault when its loop never accepts (93_implementation_defined.md I3). -/
def finishSample {α : Type} (r : Option α) (write : α → State) : Host.Outcome State Fault Refusal :=
  match r with
  | some a => .next (write a)
  | none => .fault .samplerStuck

end Sys2Proof.Machine
end

