-- ==== Sys2Proof/Machine/BaseGen.lean ====
section
/-! DEFINITION. The six commands of group 0, the base generator (40_base_generator.md section 2). Each is the effect of the
command's pseudocode; setting `pending` to none is the block step's (20_memory.md rule R45). -/

namespace Sys2Proof.Machine

/-- `G32_SEED` (rule R76). -/
def execG32Seed (s : State) : Host.Outcome State Fault Refusal :=
  let inc := seedInc s.opSequence
  .next (s.writeG (seedState s.opSeed inc) inc)

/-- `G32_NEXT` (rule R77). -/
def execG32Next (s : State) : Host.Outcome State Fault Refusal :=
  let d := next32 s.g.state s.g.inc
  .next ((s.writeGState d.2).writeRes32 d.1)

/-- `G32_BOUNDED` (rule R78). -/
def execG32Bounded (s : State) : Host.Outcome State Fault Refusal :=
  finishSample (bounded32 s.g.state s.g.inc s.opBound32) fun d => (s.writeGState d.2).writeRes32 d.1

/-- `G32_JUMP` (rule R79). -/
def execG32Jump (s : State) : Host.Outcome State Fault Refusal :=
  .next (s.writeGState (jump64 s.g.state s.opDelta s.g.inc))

/-- `G32_JUMPBACK` (rule R80). -/
def execG32JumpBack (s : State) : Host.Outcome State Fault Refusal :=
  .next (s.writeGState (jumpback64 s.g.state s.opDelta s.g.inc))

/-- `G32_LOAD` (rule R81). -/
def execG32Load (s : State) : Host.Outcome State Fault Refusal :=
  .next (s.writeGState s.opState)

end Sys2Proof.Machine
end

