-- ==== Sys2Proof/Machine/Composite.lean ====
section
/-! DEFINITION. The eight commands of group 1, the composite generator (41_composite_generator.md section 2). Each is the
effect of the command's pseudocode; setting `pending` to none is the block step's (20_memory.md rule R45). -/

namespace Sys2Proof.Machine

/-- `C64_SEED` (rule R92): `lo` takes the first seed and sequence, `hi` the second seed and the adjusted second sequence. -/
def execC64Seed (s : State) : Host.Outcome State Fault Refusal :=
  let loInc := seedInc s.opSeqHi
  let hiInc := seedInc (adjustSeq s.opSeqHi s.opSeqLo)
  .next (s.writeC ⟨seedState s.opSeedLo hiInc, hiInc⟩ ⟨seedState s.opSeedHi loInc, loInc⟩)

/-- `C64_NEXT` (rule R93). -/
def execC64Next (s : State) : Host.Outcome State Fault Refusal :=
  let d := drawCombined s.c.hi.inc s.c.lo.inc (s.c.hi.state, s.c.lo.state)
  .next ((s.writeHL d.2.1 d.2.2).writeRes0 d.1)

/-- `C64_BOUNDED` (rule R96). -/
def execC64Bounded (s : State) : Host.Outcome State Fault Refusal :=
  finishSample
    (bounded (draw64 bounded64Source s.c.hi.inc s.c.lo.inc) drawLimit64 s.opBound64 (s.c.hi.state, s.c.lo.state))
    fun d => (s.writeHL d.2.1 d.2.2).writeRes0 d.1

/-- `C64_JUMP` (rule R97): each half jumps with its own increment. -/
def execC64Jump (s : State) : Host.Outcome State Fault Refusal :=
  .next (s.writeHL (jump64 s.c.hi.state s.opDelta s.c.hi.inc) (jump64 s.c.lo.state s.opDelta s.c.lo.inc))

/-- `C64_JUMPBACK` (rule R98). -/
def execC64JumpBack (s : State) : Host.Outcome State Fault Refusal :=
  .next (s.writeHL (jumpback64 s.c.hi.state s.opDelta s.c.hi.inc) (jumpback64 s.c.lo.state s.opDelta s.c.lo.inc))

/-- `C64_LOAD` (rule R99). -/
def execC64Load (s : State) : Host.Outcome State Fault Refusal :=
  .next (s.writeHL s.opHiState s.opLoState)

/-- `C64_STEP128` (rule R94). -/
def execC64Step128 (s : State) : Host.Outcome State Fault Refusal :=
  let n := step128 s.c.hi.state s.c.lo.state
  .next (((s.writeHL n.1 n.2).writeRes0 n.1).writeRes1 n.2)

/-- `C64_HQ64` (rule R95): the state takes the post-step words; the permutation works on copies (D8). -/
def execC64Hq64 (s : State) : Host.Outcome State Fault Refusal :=
  let d := drawHq (s.c.hi.state, s.c.lo.state)
  .next ((s.writeHL d.2.1 d.2.2).writeRes0 d.1)

end Sys2Proof.Machine
end

