-- ==== Sys2Proof/Machine/Dispatch.lean ====
section
/-! DEFINITION. The one table from commands to meanings, an arm per constructor of Instr. -/

namespace Sys2Proof.Machine

def exec (i : Instr) (s : State) : Host.Outcome State Fault Refusal :=
  match i with
  | .g32Seed => Sys2Proof.Machine.execG32Seed s
  | .g32Next => Sys2Proof.Machine.execG32Next s
  | .g32Bounded => Sys2Proof.Machine.execG32Bounded s
  | .g32Jump => Sys2Proof.Machine.execG32Jump s
  | .g32JumpBack => Sys2Proof.Machine.execG32JumpBack s
  | .g32Load => Sys2Proof.Machine.execG32Load s
  | .c64Seed => Sys2Proof.Machine.execC64Seed s
  | .c64Next => Sys2Proof.Machine.execC64Next s
  | .c64Bounded => Sys2Proof.Machine.execC64Bounded s
  | .c64Jump => Sys2Proof.Machine.execC64Jump s
  | .c64JumpBack => Sys2Proof.Machine.execC64JumpBack s
  | .c64Load => Sys2Proof.Machine.execC64Load s
  | .c64Step128 => Sys2Proof.Machine.execC64Step128 s
  | .c64Hq64 => Sys2Proof.Machine.execC64Hq64 s

end Sys2Proof.Machine
end

