-- ==== Sys2Proof/WellFormed.lean ====
section
/-! DEFINITION. Which terms of the syntax the interface gives a meaning: every command (it has no field to be ill-formed),
the host accesses of 20_memory.md rule R34, and the transactions such accesses make. -/

namespace Sys2Proof

/-- Every command is well-formed: its word has no immediate and no register-number field (30_encoding.md rule R62). -/
def Instr.wf (_ : Instr) : Bool := true

/-- 20_memory.md rule R34: a 64-bit access, at an offset that is a multiple of 8, in the window (0x00 to 0x68). -/
def accessWf (width off : Nat) : Bool :=
  width == 64 && off % 8 == 0 && decide (off < 0x70)

/-- A host statement whose accesses are all defined; `poll` reads `STATUS`, which is. -/
def HostOp.wf : HostOp → Bool
  | .write width off _ => accessWf width off
  | .read width off => accessWf width off
  | .poll => true

/-- A transaction at an offset of the window (30_encoding.md rule R65, 20_memory.md rule R34). -/
def Transaction.wf : Transaction → Bool
  | .w off _ => accessWf 64 off
  | .r off => accessWf 64 off
  | .rPoll => true

end Sys2Proof
end

