-- ==== Sys2Proof/Decode.lean ====
section
/-! DEFINITION. The decoder of command words (30_encoding.md rule R60), total on every 64-bit word and rejecting by name,
then the encoder, written from the GROUP and FUNC columns of the spec's encoding table (rules R54, R56), and the register
map of the window (20_memory.md rule R33) in both directions. -/

namespace Sys2Proof

/-- `RSVD = CMD[63:8]` (rule R54). -/
def fieldRsvd (w : Word) : BitVec 56 := w.extractLsb' 8 56

/-- `OPCODE = CMD[7:0]` (rule R54). -/
def fieldOpcode (w : Word) : BitVec 8 := w.extractLsb' 0 8

/-- Why a word is `ILLEGAL`: a reserved bit is set (rule R57), or the opcode is unassigned (rule R58). -/
inductive IllegalWord where
  | reservedBits
  | unassignedOpcode
deriving DecidableEq, Repr

/-- What decoding answers: a command, or `ILLEGAL` with its reason (rule R60). -/
inductive Decoded where
  | command (i : Instr)
  | illegal (why : IllegalWord)
deriving DecidableEq, Repr

/-- The opcode map of rule R60; `none` is an unassigned opcode. -/
def instrOfOpcode (op : Nat) : Option Instr :=
  match op with
  | 0x01 => some .g32Seed
  | 0x02 => some .g32Next
  | 0x03 => some .g32Bounded
  | 0x04 => some .g32Jump
  | 0x05 => some .g32JumpBack
  | 0x06 => some .g32Load
  | 0x11 => some .c64Seed
  | 0x12 => some .c64Next
  | 0x13 => some .c64Bounded
  | 0x14 => some .c64Jump
  | 0x15 => some .c64JumpBack
  | 0x16 => some .c64Load
  | 0x17 => some .c64Step128
  | 0x18 => some .c64Hq64
  | _ => none

/-- `decode` of rule R60: the reserved bits first, then the opcode. -/
def decode (w : Word) : Decoded :=
  if fieldRsvd w = 0 then
    match instrOfOpcode (fieldOpcode w).toNat with
    | some i => .command i
    | none => .illegal .unassignedOpcode
  else .illegal .reservedBits

/-- The command a decoding holds, if it holds one. -/
def Decoded.instr? : Decoded → Option Instr
  | .command i => some i
  | .illegal _ => none

/-- `legal(v)` of rule R58, which rule R60 says is `decode(v) != ILLEGAL`. -/
def legal (w : Word) : Bool := (decode w).instr?.isSome

/-- The fields GROUP and FUNC of each command (rules R54, R56). -/
def Instr.groupFunc : Instr → BitVec 4 × BitVec 4
  | .g32Seed => (0x0, 0x1)
  | .g32Next => (0x0, 0x2)
  | .g32Bounded => (0x0, 0x3)
  | .g32Jump => (0x0, 0x4)
  | .g32JumpBack => (0x0, 0x5)
  | .g32Load => (0x0, 0x6)
  | .c64Seed => (0x1, 0x1)
  | .c64Next => (0x1, 0x2)
  | .c64Bounded => (0x1, 0x3)
  | .c64Jump => (0x1, 0x4)
  | .c64JumpBack => (0x1, 0x5)
  | .c64Load => (0x1, 0x6)
  | .c64Step128 => (0x1, 0x7)
  | .c64Hq64 => (0x1, 0x8)

/-- The command word: 63:8 RSVD = 0, 7:4 GROUP, 3:0 FUNC (rule R54). -/
def encode (i : Instr) : Word :=
  (0 : BitVec 56) ++ (i.groupFunc.1 ++ i.groupFunc.2 : BitVec 8)

/-- The instruction the decoder reads from a command word given as a number: bit 0 of the table's numbering is bit 0 of the
word (rule R8), and every bit above `nbits` is 0. A command word is 64 bits (rule R53): no longer one exists. -/
def decodeTableWord (nbits w : Nat) : Option Instr :=
  if nbits ≤ 64 then (decode (BitVec.ofNat 64 (w % 2 ^ nbits))).instr? else none

/-- The byte offset of a register in the window (20_memory.md rule R33). -/
def Reg.offset : Reg → Nat
  | .cmd => 0x00
  | .status => 0x08
  | .arg0 => 0x10
  | .arg1 => 0x18
  | .arg2 => 0x20
  | .arg3 => 0x28
  | .res0 => 0x30
  | .res1 => 0x38
  | .gState => 0x40
  | .gInc => 0x48
  | .hState => 0x50
  | .hInc => 0x58
  | .lState => 0x60
  | .lInc => 0x68

/-- The register at a byte offset; `none` where the window has none (rules R33, R34). -/
def regOfOffset (off : Nat) : Option Reg :=
  match off with
  | 0x00 => some .cmd
  | 0x08 => some .status
  | 0x10 => some .arg0
  | 0x18 => some .arg1
  | 0x20 => some .arg2
  | 0x28 => some .arg3
  | 0x30 => some .res0
  | 0x38 => some .res1
  | 0x40 => some .gState
  | 0x48 => some .gInc
  | 0x50 => some .hState
  | 0x58 => some .hInc
  | 0x60 => some .lState
  | 0x68 => some .lInc
  | _ => none

/-- The register a host access reaches: a defined access (rule R34) reaches the one at its offset, any other reaches none. -/
def accessTarget (width off : Nat) : Option Reg :=
  if width = 64 then regOfOffset off else none

end Sys2Proof
end

