-- ==== Sys2Proof/Machine/Window.lean ====
section
/-! DEFINITION. The two host operations on the register window: `HostRead` (20_memory.md rule R39) and `HostWrite`
(rule R40). Each is one instant (rule R37). -/

namespace Sys2Proof.Machine

/-- Reading one of these while `BUSY = 1` returns any value (10_state.md rules R22, R26): the two result registers and the
six views of the generator registers. -/
def freeWhileBusy : Reg → Bool
  | .cmd | .status | .arg0 | .arg1 | .arg2 | .arg3 => false
  | .res0 | .res1 | .gState | .gInc | .hState | .hInc | .lState | .lInc => true

/-- What a window register holds: its own storage, or the view it is (rules R22, R33). -/
def State.regValue (s : State) : Reg → Word
  | .cmd => s.cmd
  | .status => s.statusWord
  | .arg0 => s.arg0
  | .arg1 => s.arg1
  | .arg2 => s.arg2
  | .arg3 => s.arg3
  | .res0 => s.res0
  | .res1 => s.res1
  | .gState => s.g.state
  | .gInc => s.g.inc
  | .hState => s.c.hi.state
  | .hInc => s.c.hi.inc
  | .lState => s.c.lo.state
  | .lInc => s.c.lo.inc

/-- `HostRead` (rule R39): the value returned, and the state with at most the model's own counter of free values moved on.
A read has no side effect on any register (rule R38). -/
def hostRead (r : Reg) (s : State) : Word × State :=
  if freeWhileBusy r && s.busy then (Config.freeRead s.fresh, { s with fresh := s.fresh + 1 })
  else (s.regValue r, s)

/-- A host write to `CMD` (rule R40): `BUSY_WRITE` is checked before legality (60_exceptions.md rule R112). -/
def writeCmd (v : Word) (s : State) : State :=
  if s.busy then s.recordError .busyWrite
  else if legal v then s.accept v
  else s.recordError .illegalCmd

/-- A host write to an operand register (rule R40): dropped and recorded while a command is pending. -/
def writeArg (s stored : State) : State :=
  if s.busy then s.recordError .busyWrite else stored

/-- `HostWrite` (rule R40). -/
def hostWrite (r : Reg) (v : Word) (s : State) : State :=
  match r with
  | .cmd => writeCmd v s
  | .status => if clearsError v then s.clearError else s
  | .arg0 => writeArg s { s with arg0 := v }
  | .arg1 => writeArg s { s with arg1 := v }
  | .arg2 => writeArg s { s with arg2 := v }
  | .arg3 => writeArg s { s with arg3 := v }
  | .res0 | .res1 | .gState | .gInc | .hState | .hInc | .lState | .lInc => s

/-- The host address of a register: `HOST_BASE` and its offset (rule R32). -/
def hostAddress (r : Reg) : Nat := Config.hostBase + r.offset

end Sys2Proof.Machine
end

