-- ==== Sys2Proof/Machine/Sched.lean ====
section
/-! DEFINITION. What each agent does when it is its turn (20_memory.md rules R41, R45; 70_reset_and_hazards.md rule R123),
and whose turn it is when none is fixed. -/

namespace Sys2Proof.Machine

/-- An executed command's outcome with `pending <- none` (rule R45); a stop stays a stop. -/
def completing : Host.Outcome State Fault Refusal → Host.Outcome State Fault Refusal
  | .next t => .next t.complete
  | .fault r => .fault r
  | .refused r => .refused r

/-- The BLOCK agent's step (rule R45): execute the pending command, then `pending <- none`. With none pending the agent has
no step, and its turn changes nothing. -/
def blockStep (s : State) : Host.Outcome State Fault Refusal :=
  match s.pending with
  | none => .next s
  | some w =>
    match decode w with
    | .command i => completing (exec i s)
    | .illegal _ => .fault .illegalPending

/-- The host's next bus access (rules R39, R40, 30_encoding.md rule R63). A `poll` reads `STATUS` and stays where it is
until the value read has bit 0 clear. With no statement left, nothing happens. -/
def hostStep (s : State) : Host.Outcome State Fault Refusal :=
  match s.program with
  | [] => .next s
  | .write width off v :: rest =>
    match accessTarget width off with
    | some r => .next { hostWrite r v s with program := rest }
    | none => .refused .undefinedAccess
  | .read width off :: rest =>
    match accessTarget width off with
    | some r => .next { (hostRead r s).2 with program := rest, reads := (hostRead r s).1 :: s.reads }
    | none => .refused .undefinedAccess
  | .poll :: rest =>
    if (hostRead .status s).1.getLsbD 0 then .next s
    else .next { s with program := rest }

/-- What happens in a turn. -/
def takeTurn (t : Turn) (s : State) : Host.Outcome State Fault Refusal :=
  match t with
  | .host => hostStep s
  | .block => blockStep s
  | .reset => .next s.applyReset
  | .hostInReset => .refused .accessDuringReset

/-- Whose turn it is when none is fixed: the block's while a command is pending, which keeps the schedule fair (rule R46),
else the host's. Log entry 5. -/
def defaultTurn (s : State) : Turn := if s.busy then .block else .host

/-- One step of the whole: the next fixed turn, or the default one. -/
def nextTurn (s : State) : Host.Outcome State Fault Refusal :=
  match s.turns with
  | [] => takeTurn (defaultTurn s) s
  | t :: ts => takeTurn t { s with turns := ts }

/-- The state in which the block's next step executes the command word `v`: `CMD` and `pending` hold it, as its acceptance
leaves them (rule R40), and the next turn is the block's. -/
def State.withCommand (s : State) (v : Word) : State :=
  { s.accept v with turns := .block :: s.turns }

end Sys2Proof.Machine
end

