-- ==== Sys2Proof/Machine/Step.lean ====
section
/-! DEFINITION. The step of the machine, and where a command word stands for the step to run it. -/

namespace Sys2Proof.Machine

/-- One step: one event of the total order of 20_memory.md rule R41. -/
def step (s : State) : Host.Outcome State Fault Refusal := nextTurn s

/-- The block fetches nothing (10_state.md rule R21): a command reaches it through `CMD`. This is `s` with the command word
`w` accepted and the block to move next, so that the very next step runs exactly it. Log entry 9. -/
def State.withFetchWord (s : State) (nbits w : Nat) : State :=
  s.withCommand (BitVec.ofNat 64 (w % 2 ^ nbits))

end Sys2Proof.Machine
end

