-- ==== Sys2Proof/Machine/Assembly.lean ====
section
/-! DEFINITION. The host's assembly (30_encoding.md rules R63 to R65): the expansion of every statement into bus accesses,
the encoding of a host program as its list of transactions and their text, and the reading of both texts. -/

namespace Sys2Proof.Machine

/-- `wr <reg>, <u64>` (rule R63). -/
def wr (r : Reg) (v : Word) : HostOp := .write 64 r.offset v

/-- `rd <reg>` (rule R63). -/
def rd (r : Reg) : HostOp := .read 64 r.offset

/-- `wr CMD, <mnemonic>`: a mnemonic stands for its command word (rule R63). -/
def issue (i : Instr) : HostOp := wr .cmd (encode i)

/-- The exact expansion of each statement (rule R64). -/
def expandStmt : Stmt → List HostOp
  | .wr r v => [wr r v]
  | .rd r => [rd r]
  | .poll => [.poll]
  | .g32Seed s q => [wr .arg0 s, wr .arg1 q, issue .g32Seed, .poll]
  | .g32Next => [issue .g32Next, .poll, rd .res0]
  | .g32Bounded b => [wr .arg0 b, issue .g32Bounded, .poll, rd .res0]
  | .g32Jump d => [wr .arg0 d, issue .g32Jump, .poll]
  | .g32JumpBack d => [wr .arg0 d, issue .g32JumpBack, .poll]
  | .g32Load s => [wr .arg0 s, issue .g32Load, .poll]
  | .c64Seed sh sl qh ql => [wr .arg0 sh, wr .arg1 sl, wr .arg2 qh, wr .arg3 ql, issue .c64Seed, .poll]
  | .c64Next => [issue .c64Next, .poll, rd .res0]
  | .c64Bounded b => [wr .arg0 b, issue .c64Bounded, .poll, rd .res0]
  | .c64Jump d => [wr .arg0 d, issue .c64Jump, .poll]
  | .c64JumpBack d => [wr .arg0 d, issue .c64JumpBack, .poll]
  | .c64Load h l => [wr .arg0 h, wr .arg1 l, issue .c64Load, .poll]
  | .c64Step128 => [issue .c64Step128, .poll, rd .res0, rd .res1]
  | .c64Hq64 => [issue .c64Hq64, .poll, rd .res0]
  | .clrerr => [wr .status 0x2]

/-- The accesses of a host program, in program order. -/
def assemble (p : List Stmt) : List HostOp := p.flatMap expandStmt

/-- The transaction of a host statement (rules R63, R65); an access of another width has none. -/
def transactionOf : HostOp → Option Transaction
  | .write width off v => if width = 64 then some (.w off v) else none
  | .read width off => if width = 64 then some (.r off) else none
  | .poll => some .rPoll

/-- The host statement a transaction is. -/
def hostOpOf : Transaction → HostOp
  | .w off v => .write 64 off v
  | .r off => .read 64 off
  | .rPoll => .poll

/-- The digit of a number below 16, in the lower case the spec writes. -/
def hexDigit (n : Nat) : Char :=
  if n < 10 then Char.ofNat (48 + n) else Char.ofNat (87 + n)

/-- The `k` lowest hexadecimal digits of `n`, most significant first. -/
def hexDigits : (k n : Nat) → List Char
  | 0, _ => []
  | k + 1, n => hexDigits k (n / 16) ++ [hexDigit (n % 16)]

/-- `0x` and `k` digits. -/
def hexText (k n : Nat) : List Char := '0' :: 'x' :: hexDigits k n

/-- The text of a transaction (rule R65): the offset as two hexadecimal digits, the value as sixteen. The repeated read of
a `poll` is written as 95_test_vectors.md L3 writes it. -/
def renderTransaction : Transaction → List Char
  | .w off v => 'W' :: ' ' :: (hexText 2 off ++ ' ' :: hexText 16 v.toNat)
  | .r off => 'R' :: ' ' :: hexText 2 off
  | .rPoll => "R 0x08 (poll)".toList

/-- The value of a digit, `none` for a character that is no hexadecimal digit. -/
def hexValue (ch : Char) : Option Nat :=
  if '0' ≤ ch ∧ ch ≤ '9' then some (ch.toNat - 48)
  else if 'a' ≤ ch ∧ ch ≤ 'f' then some (ch.toNat - 87)
  else if 'A' ≤ ch ∧ ch ≤ 'F' then some (ch.toNat - 55)
  else none

/-- The number a string of digits in a base writes after what `acc` holds. -/
def digitsValue (base : Nat) : List Char → Nat → Option Nat
  | [], acc => some acc
  | ch :: rest, acc =>
    match hexValue ch with
    | some d => if d < base then digitsValue base rest (acc * base + d) else none
    | none => none

/-- `0x` and digits, exactly `k` of them. -/
def readHexText (k : Nat) : List Char → Option Nat
  | '0' :: 'x' :: ds => if ds.length = k then digitsValue 16 ds 0 else none
  | _ => none

/-- The transaction a text of rule R65 writes. -/
def readTransaction (t : List Char) : Option Transaction :=
  if t = "R 0x08 (poll)".toList then some .rPoll
  else
    match t with
    | 'R' :: ' ' :: rest => (readHexText 2 rest).map Transaction.r
    | 'W' :: ' ' :: rest =>
      match readHexText 2 (rest.take 4), readHexText 16 (rest.drop 5), rest[4]? with
      | some off, some v, some ' ' => some (.w off (BitVec.ofNat 64 v))
      | _, _, _ => none
    | _ => none

/-- The name of a register in the assembly (20_memory.md rule R33). -/
def regOfName (t : List Char) : Option Reg :=
  match String.ofList t with
  | "CMD" => some .cmd
  | "STATUS" => some .status
  | "ARG0" => some .arg0
  | "ARG1" => some .arg1
  | "ARG2" => some .arg2
  | "ARG3" => some .arg3
  | "RES0" => some .res0
  | "RES1" => some .res1
  | "G_STATE" => some .gState
  | "G_INC" => some .gInc
  | "H_STATE" => some .hState
  | "H_INC" => some .hInc
  | "L_STATE" => some .lState
  | "L_INC" => some .lInc
  | _ => none

/-- The command of a mnemonic (rule R56). -/
def instrOfName (t : List Char) : Option Instr :=
  match String.ofList t with
  | "G32_SEED" => some .g32Seed
  | "G32_NEXT" => some .g32Next
  | "G32_BOUNDED" => some .g32Bounded
  | "G32_JUMP" => some .g32Jump
  | "G32_JUMPBACK" => some .g32JumpBack
  | "G32_LOAD" => some .g32Load
  | "C64_SEED" => some .c64Seed
  | "C64_NEXT" => some .c64Next
  | "C64_BOUNDED" => some .c64Bounded
  | "C64_JUMP" => some .c64Jump
  | "C64_JUMPBACK" => some .c64JumpBack
  | "C64_LOAD" => some .c64Load
  | "C64_STEP128" => some .c64Step128
  | "C64_HQ64" => some .c64Hq64
  | _ => none

/-- A number below 2^64, as the word. -/
def wordOfNat? (n : Option Nat) : Option Word :=
  match n with
  | some v => if v < 2 ^ 64 then some (BitVec.ofNat 64 v) else none
  | none => none

/-- `<u64>` of rule R63: a `0x` hexadecimal or a decimal literal below 2^64, or a mnemonic. -/
def readWord (t : List Char) : Option Word :=
  match instrOfName t with
  | some i => some (encode i)
  | none =>
    match t with
    | '0' :: 'x' :: d :: ds => wordOfNat? (digitsValue 16 (d :: ds) 0)
    | d :: ds => wordOfNat? (digitsValue 10 (d :: ds) 0)
    | [] => none

/-- A word character added in front of the tokens that follow it: to the first of them when `glue` says they touch. -/
def consChar (ch : Char) (glue : Bool) (rest : List (List Char)) : List (List Char) :=
  match glue, rest with
  | true, t :: ts => (ch :: t) :: ts
  | _, ts => [ch] :: ts

/-- A line's character between tokens: white space. -/
def isBlank (ch : Char) : Bool := ch = ' ' || ch = '\t' || ch = '\r'

/-- A character that ends a token. -/
def isBreak (ch : Char) : Bool := isBlank ch || ch = ',' || ch = ';'

/-- The tokens of one line: a `;` starts a comment, a comma is a token, white space separates (rule R63). -/
def tokens : List Char → List (List Char)
  | [] => []
  | ch :: rest =>
    if ch = ';' then []
    else if isBlank ch then tokens rest
    else if ch = ',' then [','] :: tokens rest
    else
      match rest with
      | [] => [[ch]]
      | next :: _ => consChar ch (!isBreak next) (tokens rest)

/-- Operands separated by commas. -/
def operands : List (List Char) → Option (List (List Char))
  | [] => some []
  | [a] => if a = [','] then none else some [a]
  | a :: b :: rest =>
    if a = [','] then none
    else if b = [','] then
      match rest, operands rest with
      | _ :: _, some more => some (a :: more)
      | _, _ => none
    else none

/-- Every token read as a `<u64>`. -/
def readWords : List (List Char) → Option (List Word)
  | [] => some []
  | t :: ts =>
    match readWord t, readWords ts with
    | some v, some vs => some (v :: vs)
    | _, _ => none

/-- The pseudo-instruction of a name with its operands (rule R64), in the number the table gives it. -/
def pseudoOf (name : List Char) (vs : List Word) : Option Stmt :=
  match String.ofList name, vs with
  | "poll", [] => some .poll
  | "g32.seed", [s, q] => some (.g32Seed s q)
  | "g32.next", [] => some .g32Next
  | "g32.bounded", [b] => some (.g32Bounded b)
  | "g32.jump", [d] => some (.g32Jump d)
  | "g32.jumpback", [d] => some (.g32JumpBack d)
  | "g32.load", [s] => some (.g32Load s)
  | "c64.seed", [sh, sl, qh, ql] => some (.c64Seed sh sl qh ql)
  | "c64.next", [] => some .c64Next
  | "c64.bounded", [b] => some (.c64Bounded b)
  | "c64.jump", [d] => some (.c64Jump d)
  | "c64.jumpback", [d] => some (.c64JumpBack d)
  | "c64.load", [h, l] => some (.c64Load h l)
  | "c64.step128", [] => some .c64Step128
  | "c64.hq64", [] => some .c64Hq64
  | "clrerr", [] => some .clrerr
  | _, _ => none

/-- The statement of a name and its operands (rules R63, R64). -/
def stmtOf (name : List Char) (ops : List (List Char)) : Option Stmt :=
  match String.ofList name, ops with
  | "wr", [r, v] =>
    match regOfName r, readWord v with
    | some r, some v => some (.wr r v)
    | _, _ => none
  | "rd", [r] => (regOfName r).map Stmt.rd
  | _, _ => (readWords ops).bind (pseudoOf name)

/-- One line of assembly: at most one statement (rule R63). `none` is a line that is no assembly. -/
def readLine (line : List Char) : Option (List Stmt) :=
  match tokens line with
  | [] => some []
  | name :: rest =>
    match operands rest with
    | some ops => (stmtOf name ops).map fun st => [st]
    | none => none

/-- A host program, line by line. -/
def readProgram : List (List Char) → Option (List Stmt)
  | [] => some []
  | line :: lines =>
    match readLine line, readProgram lines with
    | some a, some b => some (a ++ b)
    | _, _ => none

/-- The state with a host program to run next: the one way a program enters the machine (log entry 9). -/
def State.withProgram (s : State) (p : List Stmt) : State :=
  { s with program := assemble p }

end Sys2Proof.Machine
end

