-- ==== Sys2Proof/Safety.lean ====
section
/-! DEFINITION. What counts as a legal state and a safe run, and the words the statements are put in: what a command reads,
how often it runs, whose turn it is, which draw of a sequence is the first accepted one. -/

namespace Sys2Proof.Machine

/-- A generator whose increment is odd (10_state.md rules R15, R18). -/
def Gen.odd (x : Gen) : Prop := x.inc.getLsbD 0 = true

/-- The odd-increment invariant (10_state.md rule R18). -/
def State.OddIncs (s : State) : Prop := s.g.odd ∧ s.c.hi.odd ∧ s.c.lo.odd

/-- `CMD` holds a legal word or the 0 of reset, and a pending command is that word and legal (rules R23, R28, R40). -/
def State.CmdOk (s : State) : Prop :=
  (s.cmd = 0 ∨ legal s.cmd = true) ∧ ∀ w, s.pending = some w → s.cmd = w ∧ legal w = true

/-- `ERRCODE` is 0 exactly when `ERR` is 0, and otherwise one of the two codes (rule R24, 60_exceptions.md rule R105). -/
def State.StatusOk (s : State) : Prop :=
  (s.status.err = false ∧ s.status.errcode = 0x00) ∨
    (s.status.err = true ∧ (s.status.errcode = 0x01 ∨ s.status.errcode = 0x02))

/-- The states the block reaches from reset, as far as the rules bound them. -/
def State.Inv (s : State) : Prop := s.OddIncs ∧ s.CmdOk ∧ s.StatusOk

/-- The environment keeps the interface contract (20_memory.md rule R34, 70_reset_and_hazards.md rule R123): every access
still to come is defined, and none is issued while reset is applied. -/
def State.HostOk (s : State) : Prop :=
  (∀ op ∈ s.program, op.wf = true) ∧ Turn.hostInReset ∉ s.turns

/-- A safe run: no number of steps ends in a fault or a refusal. -/
def State.Safe (s : State) : Prop := ∀ n, ∃ t, Host.Core.run Sys2Proof.core n s = .next t

/-- Whose turn the next step is. -/
def State.turnNow (s : State) : Turn :=
  match s.turns with
  | [] => defaultTurn s
  | k :: _ => k

/-- An outcome with `f` applied to its next state; a stop stays the same stop. -/
def mapNext (f : State → State) : Host.Outcome State Fault Refusal → Host.Outcome State Fault Refusal
  | .next t => .next (f t)
  | .fault r => .fault r
  | .refused r => .refused r

/-- A command executed `n` times, one execution after the other. -/
def execTimes (i : Instr) : Nat → State → Host.Outcome State Fault Refusal
  | 0, s => .next s
  | n + 1, s =>
    match exec i s with
    | .next t => execTimes i n t
    | .fault r => .fault r
    | .refused r => .refused r

/-- The four operand registers hold the given words. -/
def State.withArgs (s : State) (a0 a1 a2 a3 : Word) : State :=
  { s with arg0 := a0, arg1 := a1, arg2 := a2, arg3 := a3 }

/-- The given words agree with the operand registers in every bit the command reads (30_encoding.md rule R61). -/
def operandsAgree (i : Instr) (s : State) (a0 a1 a2 a3 : Word) : Prop :=
  match i with
  | .g32Seed => a0 = s.arg0 ∧ a1 = s.arg1
  | .g32Next => True
  | .g32Bounded => a0.extractLsb' 0 32 = s.arg0.extractLsb' 0 32
  | .g32Jump => a0 = s.arg0
  | .g32JumpBack => a0 = s.arg0
  | .g32Load => a0 = s.arg0
  | .c64Seed => a0 = s.arg0 ∧ a1 = s.arg1 ∧ a2 = s.arg2 ∧ a3 = s.arg3
  | .c64Next => True
  | .c64Bounded => a0 = s.arg0
  | .c64Jump => a0 = s.arg0
  | .c64JumpBack => a0 = s.arg0
  | .c64Load => a0 = s.arg0 ∧ a1 = s.arg1
  | .c64Step128 => True
  | .c64Hq64 => True

/-- `thresholdN(b)` of 40_base_generator.md rule R73 on numbers: `(2^N - b) mod b`. -/
def thresholdNat (bits b : Nat) : Nat := (2 ^ bits - b) % b

/-- Of a sequence of draws, the one numbered `k` (from 0) is the first that is at least `thr` (rules R74, R96). -/
def AcceptedAt (draws : Nat → Nat) (thr k : Nat) : Prop := (∀ j < k, draws j < thr) ∧ thr ≤ draws k

/-- The `j`-th output, from 0, of a base generator stepped again and again (rules R68, R70). -/
def baseDraw (x : Gen) (j : Nat) : Nat := (xshrr (lcgSteps x.inc j x.state)).toNat

/-- The `j`-th fast-path output, from 0: the high half's draw above the low half's (41_composite_generator.md rule R93). -/
def fastDraw (c : Comp) (j : Nat) : Nat := baseDraw c.hi j * 2 ^ 32 + baseDraw c.lo j

/-- A generator after `n` steps (rule R70); its increment does not change. -/
def Gen.after (x : Gen) (n : Nat) : Gen := ⟨lcgSteps x.inc n x.state, x.inc⟩

end Sys2Proof.Machine
end

