-- ==== Sys2Proof/Certificates/Slice0/Obligations.lean ====
section
/-! DEFINITION. The statements for the provers. Each docstring names the rule of spec/ it formalises. -/

open Sys2Proof Sys2Proof.Machine

/-! ### Encoding -/

/-- 30_encoding.md rule R56: the fourteen command words, and no other opcode, are commands. -/
def Obligations.CommandWordsDecodeAsTabled : Prop :=
  (∀ p ∈ ([(0x0000000000000001, .g32Seed), (0x0000000000000002, .g32Next), (0x0000000000000003, .g32Bounded),
      (0x0000000000000004, .g32Jump), (0x0000000000000005, .g32JumpBack), (0x0000000000000006, .g32Load),
      (0x0000000000000011, .c64Seed), (0x0000000000000012, .c64Next), (0x0000000000000013, .c64Bounded),
      (0x0000000000000014, .c64Jump), (0x0000000000000015, .c64JumpBack), (0x0000000000000016, .c64Load),
      (0x0000000000000017, .c64Step128), (0x0000000000000018, .c64Hq64)] : List (Word × Instr)),
    decode p.1 = .command p.2 ∧ encode p.2 = p.1) ∧
  ∀ op : BitVec 8, op ∉ ([0x01, 0x02, 0x03, 0x04, 0x05, 0x06, 0x11, 0x12, 0x13, 0x14, 0x15, 0x16, 0x17, 0x18] :
    List (BitVec 8)) → decode (op.setWidth 64) = .illegal .unassignedOpcode

/-- 30_encoding.md rule R58: which words are legal; and the effect of writing an illegal one while `BUSY = 0`. -/
def Obligations.LegalWordsAreTheFourteenOpcodes : Prop :=
  (∀ w : Word, legal w = true ↔
    w.extractLsb' 8 56 = 0 ∧ w.extractLsb' 0 8 ∈ ([0x01, 0x02, 0x03, 0x04, 0x05, 0x06, 0x11, 0x12, 0x13, 0x14, 0x15,
      0x16, 0x17, 0x18] : List (BitVec 8))) ∧
  (∀ op : BitVec 8, legal (op.setWidth 64) = false ↔
    op.toNat = 0x00 ∨ (0x07 ≤ op.toNat ∧ op.toNat ≤ 0x10) ∨ 0x19 ≤ op.toNat) ∧
  ∀ (s : State) (w : Word), s.pending = none → legal w = false →
    hostWrite .cmd w s = { s with status := if s.status.err then s.status else ⟨true, 0x01⟩ }

/-- 30_encoding.md rules R54, R57, R60: each command has one word, and a word with a reserved bit set is none. -/
def Obligations.EncodeGivesTheOnlyWordOfACommand : Prop :=
  (∀ (i : Instr) (w : Word), decode w = .command i ↔ w = encode i) ∧
  ∀ (w : Word) (k : Nat), 8 ≤ k → w.getLsbD k = true → decode w = .illegal .reservedBits

/-- 30_encoding.md rule R65: the text of a transaction reads back as the transaction, whatever its offset and value. -/
def Obligations.TransactionTextReadsBack : Prop :=
  ∀ t : Transaction, t.wf = true → readTransaction (renderTransaction t) = some t

/-- 30_encoding.md rules R63, R64, R65: every assembled program makes only defined accesses, and its list of transactions
says the same accesses in the same order. -/
def Obligations.AssembledProgramsHaveTransactions : Prop :=
  ∀ p : List Stmt, (∀ op ∈ assemble p, op.wf = true) ∧
    ∃ ts : List Transaction, (assemble p).map transactionOf = ts.map some ∧ ts.map hostOpOf = assemble p ∧
      ∀ t ∈ ts, t.wf = true

/-- 30_encoding.md rule R64: the exact expansion of each pseudo-instruction, its registers given by their offsets and its
command by its word. -/
def Obligations.PseudoInstructionsExpandAsTabled : Prop :=
  ∀ a b c d : Word,
    expandStmt (.g32Seed a b) = [.write 64 0x10 a, .write 64 0x18 b, .write 64 0x00 0x01, .poll] ∧
    expandStmt .g32Next = [.write 64 0x00 0x02, .poll, .read 64 0x30] ∧
    expandStmt (.g32Bounded a) = [.write 64 0x10 a, .write 64 0x00 0x03, .poll, .read 64 0x30] ∧
    expandStmt (.g32Jump a) = [.write 64 0x10 a, .write 64 0x00 0x04, .poll] ∧
    expandStmt (.g32JumpBack a) = [.write 64 0x10 a, .write 64 0x00 0x05, .poll] ∧
    expandStmt (.g32Load a) = [.write 64 0x10 a, .write 64 0x00 0x06, .poll] ∧
    expandStmt (.c64Seed a b c d) = [.write 64 0x10 a, .write 64 0x18 b, .write 64 0x20 c, .write 64 0x28 d,
      .write 64 0x00 0x11, .poll] ∧
    expandStmt .c64Next = [.write 64 0x00 0x12, .poll, .read 64 0x30] ∧
    expandStmt (.c64Bounded a) = [.write 64 0x10 a, .write 64 0x00 0x13, .poll, .read 64 0x30] ∧
    expandStmt (.c64Jump a) = [.write 64 0x10 a, .write 64 0x00 0x14, .poll] ∧
    expandStmt (.c64JumpBack a) = [.write 64 0x10 a, .write 64 0x00 0x15, .poll] ∧
    expandStmt (.c64Load a b) = [.write 64 0x10 a, .write 64 0x18 b, .write 64 0x00 0x16, .poll] ∧
    expandStmt .c64Step128 = [.write 64 0x00 0x17, .poll, .read 64 0x30, .read 64 0x38] ∧
    expandStmt .c64Hq64 = [.write 64 0x00 0x18, .poll, .read 64 0x30] ∧
    expandStmt .clrerr = [.write 64 0x08 0x2]

/-- 20_memory.md rules R32, R33: the fourteen offsets of the window, and none besides. -/
def Obligations.WindowHoldsFourteenRegisters : Prop :=
  (∀ p ∈ ([(0x00, .cmd), (0x08, .status), (0x10, .arg0), (0x18, .arg1), (0x20, .arg2), (0x28, .arg3), (0x30, .res0),
      (0x38, .res1), (0x40, .gState), (0x48, .gInc), (0x50, .hState), (0x58, .hInc), (0x60, .lState), (0x68, .lInc)] :
      List (Nat × Reg)), regOfOffset p.1 = some p.2 ∧ p.2.offset = p.1) ∧
  ∀ off : Nat, regOfOffset off = none ↔ ¬ (off % 8 = 0 ∧ off ≤ 0x68)

/-- 20_memory.md rule R34: the host's step is refused exactly for an undefined access. The second case, where no turn is
fixed and the host moves because none is pending, is the model's default turn (log entry 5). -/
def Obligations.UndefinedAccessesAreRefused : Prop :=
  ∀ (s : State) (width off : Nat) (v : Word) (rest : List HostOp) (ts : List Turn),
    (s.turns = .host :: ts ∨ (s.turns = [] ∧ ts = [] ∧ s.pending = none)) →
    (s.program = .read width off :: rest ∨ s.program = .write width off v :: rest) →
      (¬ (width = 64 ∧ off % 8 = 0 ∧ off ≤ 0x68) → step s = .refused .undefinedAccess) ∧
      (width = 64 ∧ off % 8 = 0 ∧ off ≤ 0x68 → ∃ t, step s = .next t)

/-! ### Functions -/

/-- 40_base_generator.md rule R66: the LCG step on numbers. -/
def Obligations.LcgStepIsMultiplyAddModulo : Prop :=
  ∀ s inc : Word, (lcg64 s inc).toNat = (s.toNat * 0x5851f42d4c957f2d + inc.toNat) % 2 ^ 64

/-- 40_base_generator.md rule R67: bits 58:27 of `old ^ (old >> 18)`, rotated right by `old[63:59]`. -/
def Obligations.XshrrRotatesBits58To27 : Prop :=
  ∀ old : Word,
    xshrr old = ((old ^^^ (old >>> 18)).extractLsb' 27 32).rotateRight (old.extractLsb' 59 5).toNat ∧
    (old.extractLsb' 59 5 = 0 → xshrr old = (old ^^^ (old >>> 18)).extractLsb' 27 32)

/-- 40_base_generator.md rule R69: with an odd increment the LCG is one cycle through all 2^64 states; and the three
generators of every state the block reaches (10_state.md rule R18) have one. -/
def Obligations.LcgHasFullPeriod : Prop :=
  (∀ inc : Word, inc.getLsbD 0 = true → ∀ s t : Word, ∃ n, n < 2 ^ 64 ∧ lcgSteps inc n s = t) ∧
  (∀ inc : Word, inc.getLsbD 0 = true → ∀ (s : Word) (n : Nat), n = 2 ^ 64 → lcgSteps inc n s = s) ∧
  ∀ st : State, st.OddIncs → ∀ x ∈ [st.g, st.c.hi, st.c.lo], ∀ t : Word, ∃ n, n < 2 ^ 64 ∧ (x.after n).state = t

/-- 40_base_generator.md rules R70, R71: the jump is `delta` steps, in closed form too; and 64 rounds of the loop are enough. -/
def Obligations.JumpIsDeltaSteps : Prop :=
  ∀ s delta inc : Word,
    jump64 s delta inc = lcgSteps inc delta.toNat s ∧
    jump64 s delta inc
      = 0x5851f42d4c957f2d#64 ^ delta.toNat * s + inc * ((List.range delta.toNat).map (0x5851f42d4c957f2d#64 ^ ·)).sum ∧
    ∀ n, 64 ≤ n → jumpLoop n delta mult64 inc 1 0 = jumpLoop 64 delta mult64 inc 1 0

/-- 40_base_generator.md rule R82: the jump laws. -/
def Obligations.JumpLaws : Prop :=
  ∀ s a b inc : Word, inc.getLsbD 0 = true →
    jump64 (jump64 s a inc) b inc = jump64 s (a + b) inc ∧
    jump64 s 0 inc = s ∧
    jump64 (jump64 s 0x8000000000000000 inc) 0x8000000000000000 inc = s ∧
    (∀ t, jump64 t a inc = s ↔ t = jumpback64 s a inc) ∧
    jumpback64 (jump64 s a inc) a inc = s ∧
    jump64 s a inc = lcgSteps inc a.toNat s

/-- 40_base_generator.md rule R73: the threshold, at any width (the spec uses 32 and 64). -/
def Obligations.ThresholdIsTwoToTheNMinusBoundModBound : Prop :=
  ∀ (n : Nat) (b : BitVec n), b ≠ 0 →
    (threshold b).toNat = thresholdNat n b.toNat ∧ threshold b < b ∧
    (∀ k, b.toNat = 2 ^ k → threshold b = 0)

/-- 40_base_generator.md rule R74, 41_composite_generator.md rule R96: over any draw, the sampler answers with the first
accepted draw modulo the bound and the state after it, having advanced the state once for each draw, rejected ones too;
and for bound 0 it answers 0 without a draw. -/
def Obligations.SamplerTakesTheFirstAcceptedDraw : Prop :=
  ∀ (n : Nat) (σ : Type) (draw : σ → BitVec n × σ) (limit : Nat) (s : σ),
    bounded draw limit 0 s = some (0, s) ∧
    ∀ (bound v : BitVec n) (s' : σ), bound ≠ 0 →
      (bounded draw limit bound s = some (v, s') ↔
        ∃ k, k < limit ∧
          AcceptedAt (fun j => (draw ((fun x => (draw x).2)^[j] s)).1.toNat) (threshold bound).toNat k ∧
          v = (draw ((fun x => (draw x).2)^[k] s)).1 % bound ∧ s' = (fun x => (draw x).2)^[k + 1] s)

/-- 40_base_generator.md rule R83: `xshrr` takes each value equally often (with the rest of a bijection it determines the
state), the threshold stays below 2^31, so a large enough draw comes within 2^64 draws and the sampler ends. -/
def Obligations.XshrrIsEquidistributedAndSamplingEnds : Prop :=
  (∃ rest : Word → Word32, Function.Bijective fun s : Word => (xshrr s, rest s)) ∧
  (∀ b : Word32, b ≠ 0 → (threshold b).toNat ≤ 2 ^ 31 - 1) ∧
  ∀ s inc : Word, inc.getLsbD 0 = true →
    (∃ k, k < 2 ^ 64 ∧ 2 ^ 31 ≤ (xshrr (lcgSteps inc k s)).toNat) ∧
    ∀ bound : Word32, ∃ r, bounded32 s inc bound = some r

/-- 40_base_generator.md rule R84: the range of `G32_BOUNDED`, and no modulo bias. -/
def Obligations.G32BoundedInRangeWithoutBias : Prop :=
  (∀ s t : State, exec .g32Bounded s = .next t →
    (s.arg0.extractLsb' 0 32 ≠ 0 → t.res0.toNat < (s.arg0.extractLsb' 0 32).toNat) ∧
    (s.arg0.extractLsb' 0 32 = 0 → t.res0 = 0)) ∧
  ∀ b : Nat, 0 < b → b < 2 ^ 32 →
    b ∣ 2 ^ 32 - thresholdNat 32 b ∧
    ∀ r, r < b → ((Finset.Ico (thresholdNat 32 b) (2 ^ 32)).filter (· % b = r)).card = (2 ^ 32 - thresholdNat 32 b) / b

/-- 41_composite_generator.md rule R103, its first sentence: the range of `C64_BOUNDED`, and no modulo bias; and the halves
are independent on the fast path: neither half of the next state depends on the other half. -/
def Obligations.C64BoundedInRangeAndFastHalvesIndependent : Prop :=
  (∀ s t : State, exec .c64Bounded s = .next t → s.arg0 ≠ 0 → t.res0 < s.arg0) ∧
  (∀ b : Nat, 0 < b → b < 2 ^ 64 → b ∣ 2 ^ 64 - thresholdNat 64 b) ∧
  ∀ i ∈ [Instr.c64Next, .c64Jump, .c64JumpBack], ∀ (s : State) (x : Gen), ∃ t u v : State,
    exec i s = .next t ∧ exec i { s with c := ⟨s.c.hi, x⟩ } = .next u ∧ exec i { s with c := ⟨x, s.c.lo⟩ } = .next v ∧
      u.c.hi = t.c.hi ∧ v.c.lo = t.c.lo

/-- 41_composite_generator.md rule R88: the 128-bit step on numbers. -/
def Obligations.Step128IsMultiplyAddModulo : Prop :=
  (∀ (mul inc : Word128) (h l : Word),
    (step128With mul inc h l).1.toNat * 2 ^ 64 + (step128With mul inc h l).2.toNat
      = ((h.toNat * 2 ^ 64 + l.toNat) * mul.toNat + inc.toNat) % 2 ^ 128) ∧
  ∀ h l : Word, step128 h l = step128With Config.mul128 Config.inc128 h l

/-- 41_composite_generator.md rule R89: the word-level computation, with a wide multiplier or from 32-bit halves, gives the
same step. -/
def Obligations.WordLevelStepAgrees : Prop :=
  (∀ a b : Word, (mul64x128 a b).1.toNat * 2 ^ 64 + (mul64x128 a b).2.toNat = a.toNat * b.toNat) ∧
  (∀ a b : Word, mul64x128Halves a b = mul64x128 a b) ∧
  ∀ (mul inc : Word128) (h l : Word),
    step128Words mul64x128 mul inc h l = step128With mul inc h l ∧
    step128Words mul64x128Halves mul inc h l = step128With mul inc h l

/-- 41_composite_generator.md rule R90: the permutation's formula, its bijectivity for each low word, and that it works on
copies: the state keeps the post-step words. -/
def Obligations.Perm64IsABijection : Prop :=
  (∀ h l : Word, perm64 h l
    = (((h ^^^ (h >>> 22)) * 0xda942042e4dd58b5) ^^^ (((h ^^^ (h >>> 22)) * 0xda942042e4dd58b5) >>> 48)) * (l ||| 1)) ∧
  (∀ l : Word, Function.Bijective fun h => perm64 h l) ∧
  ∀ s : State, ∃ t, exec .c64Hq64 s = .next t ∧ (t.c.hi.state, t.c.lo.state) = step128 s.c.hi.state s.c.lo.state

/-! ### Commands of group 0: each completes in every state its hypotheses name, with all of its next state given -/

/-- 40_base_generator.md rule R76. -/
def Obligations.G32SeedSetsStateAndIncrement : Prop :=
  decode 0x0000000000000001 = .command .g32Seed ∧
  (∀ (s : State) (inc : Word), inc = (s.arg1 <<< 1) ||| 1 →
    exec .g32Seed s = .next { s with g := ⟨(s.arg0 + inc) * 0x5851f42d4c957f2d + inc, inc⟩ }) ∧
  (∀ q : Word, ((q ^^^ 0x8000000000000000) <<< 1) ||| 1 = (q <<< 1) ||| 1) ∧
  (∀ s : State, s.arg0 = 0 → s.arg1 = 0 → exec .g32Seed s = .next { s with g := ⟨0x5851f42d4c957f2e, 1⟩ }) ∧
  ∀ s : State, s.arg0 = 42 → s.arg1 = 54 → exec .g32Seed s = .next { s with g := ⟨0x185706b82c2e03f8, 0x6d⟩ }

/-- 40_base_generator.md rule R77: the output of the OLD state zero-extended into `RES0`, the state one step on. -/
def Obligations.G32NextOutputsAndSteps : Prop :=
  decode 0x0000000000000002 = .command .g32Next ∧
  (∀ s : State, exec .g32Next s = .next { s with
    g := ⟨s.g.state * 0x5851f42d4c957f2d + s.g.inc, s.g.inc⟩
    res0 := (((s.g.state ^^^ (s.g.state >>> 18)).extractLsb' 27 32).rotateRight (s.g.state >>> 59).toNat).setWidth 64 }) ∧
  (∀ s : State, s.g.state = 0 → exec .g32Next s = .next { s with g := ⟨s.g.inc, s.g.inc⟩, res0 := 0 }) ∧
  ∀ s : State, s.g = ⟨0x185706b82c2e03f8, 0x6d⟩ →
    exec .g32Next s = .next { s with g := ⟨0x2b47fed88766bb05, 0x6d⟩, res0 := 0x00000000a15c02b7 }

/-- 40_base_generator.md rule R78: the first accepted draw modulo the bound, the state advanced once per draw; bound 0 draws
nothing; a threshold of 0 (bound 1, a power of two) draws once. -/
def Obligations.G32BoundedReturnsTheFirstAcceptedDraw : Prop :=
  decode 0x0000000000000003 = .command .g32Bounded ∧
  (∀ s : State, s.arg0.extractLsb' 0 32 = 0 → exec .g32Bounded s = .next { s with res0 := 0 }) ∧
  (∀ (s : State) (b : Nat), s.g.odd → b = (s.arg0.extractLsb' 0 32).toNat → b ≠ 0 →
    ∃ k, k < 2 ^ 64 ∧ AcceptedAt (baseDraw s.g) (thresholdNat 32 b) k ∧ (thresholdNat 32 b = 0 → k = 0) ∧
      baseDraw s.g k % b < b ∧
      exec .g32Bounded s = .next { s with g := s.g.after (k + 1), res0 := BitVec.ofNat 64 (baseDraw s.g k % b) }) ∧
  thresholdNat 32 1 = 0 ∧ (∀ k, k < 32 → thresholdNat 32 (2 ^ k) = 0) ∧
  thresholdNat 32 0x80000001 = 0x7fffffff ∧ (∀ b, 0 < b → b < 2 ^ 32 → thresholdNat 32 b ≤ 0x7fffffff) ∧
  thresholdNat 32 0xffffffff = 1 ∧
  ∀ s : State, s.g = ⟨0x185706b82c2e03f8, 0x6d⟩ → s.arg0 = 10 →
    exec .g32Bounded s = .next { s with g := ⟨0x2b47fed88766bb05, 0x6d⟩, res0 := 3 }

/-- 40_base_generator.md rule R79: `delta` steps forward, which is what `delta` executions of `G32_NEXT` do to the state. -/
def Obligations.G32JumpAdvancesByDelta : Prop :=
  decode 0x0000000000000004 = .command .g32Jump ∧
  (∀ s : State, exec .g32Jump s = .next { s with g := s.g.after s.arg0.toNat }) ∧
  (∀ s : State, ∃ t u, exec .g32Jump s = .next t ∧ execTimes .g32Next s.arg0.toNat s = .next u ∧ t.g = u.g) ∧
  (∀ s : State, s.arg0 = 0 → exec .g32Jump s = .next s) ∧
  (∀ s : State, s.g.odd → s.arg0 = 0xffffffffffffffff →
    ∃ t, exec .g32Jump s = .next t ∧ t.g.state * 0x5851f42d4c957f2d + s.g.inc = s.g.state) ∧
  (∀ s : State, s.g.odd → s.arg0 = 0x8000000000000000 →
    ∃ t, exec .g32Jump s = .next t ∧ exec .g32Jump t = .next s) ∧
  ∀ s : State, s.g = ⟨0x185706b82c2e03f8, 0x6d⟩ → s.arg0 = 10 →
    exec .g32Jump s = .next { s with g := ⟨0xf8cb50292a789b06, 0x6d⟩ }

/-- 40_base_generator.md rules R72, R80: a jump by the two's complement of `delta`, which undoes the jump by `delta`. -/
def Obligations.G32JumpBackRetreatsByDelta : Prop :=
  decode 0x0000000000000005 = .command .g32JumpBack ∧
  (∀ s : State, exec .g32JumpBack s = .next { s with g := s.g.after ((2 ^ 64 - s.arg0.toNat) % 2 ^ 64) }) ∧
  (∀ s : State, s.arg0 = 0 → exec .g32JumpBack s = .next s) ∧
  (∀ s : State, s.arg0 = 0x8000000000000000 → exec .g32JumpBack s = exec .g32Jump s) ∧
  (∀ s : State, s.g.odd → ∃ t, exec .g32JumpBack s = .next t ∧ exec .g32Jump t = .next s) ∧
  (∀ s : State, s.g.odd → s.arg0 = 1 →
    ∃ t, exec .g32Next s = .next t ∧ exec .g32JumpBack t = .next { t with g := s.g }) ∧
  ∀ s : State, s.g = ⟨0x185706b82c2e03f8, 0x6d⟩ → s.arg0 = 1 →
    exec .g32JumpBack s = .next { s with g := ⟨0x0000000000000097, 0x6d⟩ }

/-- 40_base_generator.md rule R81: the state word alone is loaded; a state read back earlier is restored, the increment
being the same. -/
def Obligations.G32LoadOverwritesTheStateWord : Prop :=
  decode 0x0000000000000006 = .command .g32Load ∧
  (∀ s : State, exec .g32Load s = .next { s with g := ⟨s.arg0, s.g.inc⟩ }) ∧
  ∀ s u : State, s.pending = none → u.g.inc = s.g.inc → u.arg0 = (hostRead .gState s).1 →
    ∃ t, exec .g32Load u = .next t ∧ t.g = s.g

/-! ### Commands of group 1 -/

/-- 41_composite_generator.md rule R92: `lo` from the first seed and sequence, `hi` from the second seed and the second
sequence, complemented when bits 62:0 of the two sequences are equal. -/
def Obligations.C64SeedCrossesAndSeparatesTheStreams : Prop :=
  decode 0x0000000000000011 = .command .c64Seed ∧
  (∀ (s : State) (q hi lo : Word),
    q = (if s.arg3.extractLsb' 0 63 = s.arg2.extractLsb' 0 63 then ~~~s.arg3 else s.arg3) →
    hi = (q <<< 1) ||| 1 → lo = (s.arg2 <<< 1) ||| 1 →
      exec .c64Seed s = .next { s with c :=
        ⟨⟨(s.arg1 + hi) * 0x5851f42d4c957f2d + hi, hi⟩, ⟨(s.arg0 + lo) * 0x5851f42d4c957f2d + lo, lo⟩⟩ }) ∧
  (∀ s : State, s.arg3 = s.arg2 ∨ s.arg3 = s.arg2 ^^^ 0x8000000000000000 →
    ∃ t, exec .c64Seed s = .next t ∧ t.c.hi.inc = ((~~~s.arg3) <<< 1) ||| 1) ∧
  (∀ s : State, s.arg0 = 1 → s.arg1 = 2 → s.arg2 = 3 → s.arg3 = 4 →
    exec .c64Seed s = .next { s with c := ⟨⟨0xcb857df24a6c76f8, 0x9⟩, ⟨0xc28fa16a64abf96f, 0x7⟩⟩ }) ∧
  ∀ s : State, s.arg0 = 1 → s.arg1 = 2 → s.arg2 = 3 → s.arg3 = 3 →
    ∃ t, exec .c64Seed s = .next t ∧ t.c.hi.inc = 0xfffffffffffffff9

/-- 41_composite_generator.md rule R93: the high half's draw above the low half's, each half one step on. -/
def Obligations.C64NextConcatenatesTwoDraws : Prop :=
  decode 0x0000000000000012 = .command .c64Next ∧
  (∀ s : State, exec .c64Next s = .next { s with
    c := ⟨s.c.hi.after 1, s.c.lo.after 1⟩, res0 := xshrr s.c.hi.state ++ xshrr s.c.lo.state }) ∧
  ∀ s : State, s.c = ⟨⟨0xcb857df24a6c76f8, 0x9⟩, ⟨0xc28fa16a64abf96f, 0x7⟩⟩ →
    exec .c64Next s = .next { s with
      c := ⟨⟨0x96fd248dc26df1a1, 0x9⟩, ⟨0xad3a724d2493e98a, 0x7⟩⟩, res0 := 0x54f13138f2393151 }

/-- 41_composite_generator.md rule R94: the state words and both results take the post-step words; from (0, 0) they are the
two halves of `INC128`; the high word never affects the new low word. The rule's example uses candidate constants that are
not the block's and is no part of this. -/
def Obligations.C64Step128StepsTheWideState : Prop :=
  decode 0x0000000000000017 = .command .c64Step128 ∧
  (∀ (s : State) (nh nl : Word), (nh, nl) = step128 s.c.hi.state s.c.lo.state →
    exec .c64Step128 s = .next { s with c := ⟨⟨nh, s.c.hi.inc⟩, ⟨nl, s.c.lo.inc⟩⟩, res0 := nh, res1 := nl }) ∧
  (∀ s : State, s.c.hi.state = 0 → s.c.lo.state = 0 → ∃ t, exec .c64Step128 s = .next t ∧
    t.res0 = Config.inc128.extractLsb' 64 64 ∧ t.res1 = Config.inc128.extractLsb' 0 64) ∧
  ∀ (s : State) (x : Gen), ∃ t u, exec .c64Step128 s = .next t ∧
    exec .c64Step128 { s with c := ⟨x, s.c.lo⟩ } = .next u ∧ u.c.lo.state = t.c.lo.state

/-- 41_composite_generator.md rule R95: the state of `C64_STEP128`, the output permuted from the post-step words. The rule's
example uses candidate constants that are not the block's; of it only `perm64(1, 0)` is a part of this. -/
def Obligations.C64Hq64PermutesThePostStepWords : Prop :=
  decode 0x0000000000000018 = .command .c64Hq64 ∧
  (∀ (s : State) (nh nl : Word), (nh, nl) = step128 s.c.hi.state s.c.lo.state →
    exec .c64Hq64 s = .next { s with c := ⟨⟨nh, s.c.hi.inc⟩, ⟨nl, s.c.lo.inc⟩⟩, res0 := perm64 nh nl }) ∧
  (∀ s : State, ∃ t u, exec .c64Hq64 s = .next t ∧ exec .c64Step128 s = .next u ∧ t.c = u.c ∧ t.res1 = s.res1) ∧
  (∀ l : Word, perm64 0 l = 0) ∧ (∀ h l : Word, perm64 h (l ||| 1) = perm64 h l) ∧
  perm64 1 0 = 0xda942042e4dd8221

/-- 41_composite_generator.md rules R96, R102, for `BOUNDED64_SOURCE = COMBINED`, the value rule R7 gives it: the first
accepted fast-path draw modulo the bound. `draw64` with `HQ` is the quality-path draw; that loop's end is no rule's. -/
def Obligations.C64BoundedReturnsTheFirstAcceptedDraw : Prop :=
  decode 0x0000000000000013 = .command .c64Bounded ∧
  (∀ s : State, s.arg0 = 0 → exec .c64Bounded s = .next { s with res0 := 0 }) ∧
  (∀ (s : State) (b : Nat), s.c.hi.odd → b = s.arg0.toNat → b ≠ 0 →
    ∃ k, k < 2 ^ 64 ∧ AcceptedAt (fastDraw s.c) (thresholdNat 64 b) k ∧ (thresholdNat 64 b = 0 → k = 0) ∧
      exec .c64Bounded s = .next { s with
        c := ⟨s.c.hi.after (k + 1), s.c.lo.after (k + 1)⟩, res0 := BitVec.ofNat 64 (fastDraw s.c k % b) }) ∧
  (∀ b, 0 < b → b < 2 ^ 64 → thresholdNat 64 b ≤ 2 ^ 63 - 1) ∧ thresholdNat 64 (2 ^ 63 + 1) = 2 ^ 63 - 1 ∧
  (∀ k, k < 64 → thresholdNat 64 (2 ^ k) = 0) ∧ thresholdNat 64 (2 ^ 64 - 1) = 1 ∧
  (∀ s : State, s.c = ⟨⟨0xcb857df24a6c76f8, 0x9⟩, ⟨0xc28fa16a64abf96f, 0x7⟩⟩ →
    (s.arg0 = 10 → ∃ t, exec .c64Bounded s = .next t ∧ t.res0 = 9) ∧
    (s.arg0 = 0x8000000000000001 → ∃ t, exec .c64Bounded s = .next t ∧ t.res0 = 0x5b86a92210b46387)) ∧
  ∀ (hi lo : Word) (h l : Word),
    draw64 .hq hi lo (h, l) = (perm64 (step128 h l).1 (step128 h l).2, step128 h l)

/-- 41_composite_generator.md rule R97. -/
def Obligations.C64JumpAdvancesBothHalves : Prop :=
  decode 0x0000000000000014 = .command .c64Jump ∧
  (∀ s : State, exec .c64Jump s
    = .next { s with c := ⟨s.c.hi.after s.arg0.toNat, s.c.lo.after s.arg0.toNat⟩ }) ∧
  (∀ s : State, s.arg0 = 0 → exec .c64Jump s = .next s) ∧
  ∀ s : State, s.c = ⟨⟨0xcb857df24a6c76f8, 0x9⟩, ⟨0xc28fa16a64abf96f, 0x7⟩⟩ → s.arg0 = 5 →
    exec .c64Jump s = .next { s with c := ⟨⟨0x0a0250b630f1901d, 0x9⟩, ⟨0xd77a929daaa3487e, 0x7⟩⟩ }

/-- 41_composite_generator.md rule R98: each half retreats; the jump by the same `delta` is undone, and so are that many
executions of `C64_NEXT`. -/
def Obligations.C64JumpBackRetreatsBothHalves : Prop :=
  decode 0x0000000000000015 = .command .c64JumpBack ∧
  (∀ s : State, exec .c64JumpBack s = .next { s with
    c := ⟨s.c.hi.after ((2 ^ 64 - s.arg0.toNat) % 2 ^ 64), s.c.lo.after ((2 ^ 64 - s.arg0.toNat) % 2 ^ 64)⟩ }) ∧
  (∀ s : State, s.c.hi.odd → s.c.lo.odd →
    ∃ t, exec .c64Jump s = .next t ∧ exec .c64JumpBack t = .next s) ∧
  ∀ s : State, s.c.hi.odd → s.c.lo.odd →
    ∃ t u, execTimes .c64Next s.arg0.toNat s = .next t ∧ exec .c64JumpBack t = .next u ∧ u.c = s.c

/-- 41_composite_generator.md rule R99. -/
def Obligations.C64LoadOverwritesBothStateWords : Prop :=
  decode 0x0000000000000016 = .command .c64Load ∧
  (∀ s : State, exec .c64Load s = .next { s with c := ⟨⟨s.arg0, s.c.hi.inc⟩, ⟨s.arg1, s.c.lo.inc⟩⟩ }) ∧
  ∀ s : State, s.arg0 = 0xcb857df24a6c76f8 → s.arg1 = 0xc28fa16a64abf96f → s.c.hi.inc = 9 → s.c.lo.inc = 7 →
    ∃ t, exec .c64Load s = .next t ∧ t.c = ⟨⟨0xcb857df24a6c76f8, 0x9⟩, ⟨0xc28fa16a64abf96f, 0x7⟩⟩

/-- 41_composite_generator.md rule R100: whatever the operands, the two increments differ after seeding. -/
def Obligations.SeededIncrementsDiffer : Prop :=
  ∀ s : State, ∃ t, exec .c64Seed s = .next t ∧ t.c.hi.inc ≠ t.c.lo.inc

/-- 41_composite_generator.md rule R101: the composite jump is that many fast steps; a quality step gives the same low word
in every state only under the two coincidences of constants the rule names. -/
def Obligations.CompositeJumpIsFastStepsNotQualitySteps : Prop :=
  (∀ s : State, ∃ t u, exec .c64Jump s = .next t ∧ execTimes .c64Next s.arg0.toNat s = .next u ∧ t.c = u.c) ∧
  ∀ inc : Word, (∀ h l : Word, (step128 h l).2 = lcg64 l inc) ↔
    Config.mul128.extractLsb' 0 64 = mult64 ∧ Config.inc128.extractLsb' 0 64 = inc

/-- 40_base_generator.md rule R74, 41_composite_generator.md rule R96, 93_implementation_defined.md I3: the bounded commands
stop, with the named fault, exactly in the states (none with odd increments is one) from which the loop would never accept a
draw; and so does the loop over either draw of `BOUNDED64_SOURCE`. The fault is the model's form of `stuck` (log entry 7). -/
def Obligations.BoundedCommandsStopOnlyWhenNoDrawIsEverAccepted : Prop :=
  (∀ s : State, exec .g32Bounded s = .fault .samplerStuck ↔
    s.arg0.extractLsb' 0 32 ≠ 0 ∧ ∀ k, baseDraw s.g k < thresholdNat 32 (s.arg0.extractLsb' 0 32).toNat) ∧
  (∀ s : State, exec .c64Bounded s = .fault .samplerStuck ↔
    s.arg0 ≠ 0 ∧ ∀ k, fastDraw s.c k < thresholdNat 64 s.arg0.toNat) ∧
  ∀ (src : DrawSource) (hi lo b : Word) (st : Word × Word),
    bounded (draw64 src hi lo) drawLimit64 b st = none ↔
      b ≠ 0 ∧ ∀ k, (draw64 src hi lo ((fun x => (draw64 src hi lo x).2)^[k] st)).1.toNat < thresholdNat 64 b.toNat

/-! ### What commands read and write -/

/-- 30_encoding.md rule R55: a command of one group neither reads nor writes the other group's generator. -/
def Obligations.GroupsActOnTheirOwnGenerator : Prop :=
  (∀ (i : Instr) (s : State) (c : Comp), i.groupFunc.1 = 0 →
    exec i { s with c := c } = mapNext (fun t => { t with c := c }) (exec i s) ∧
    ∀ t, exec i s = .next t → t.c = s.c) ∧
  ∀ (i : Instr) (s : State) (g : Gen), i.groupFunc.1 = 1 →
    exec i { s with g := g } = mapNext (fun t => { t with g := g }) (exec i s) ∧
    ∀ t, exec i s = .next t → t.g = s.g

/-- 10_state.md rules R20, R25, R26, 20_memory.md rule R45: the frame of every command. Nothing but its own generator
registers and result registers changes: no operand, no flag, not `CMD`; there is no memory (rule R31). -/
def Obligations.CommandsWriteOnlyTheirRegisters : Prop :=
  ∀ (i : Instr) (s t : State), exec i s = .next t →
    t.cmd = s.cmd ∧ t.status = s.status ∧ t.pending = s.pending ∧
    t.arg0 = s.arg0 ∧ t.arg1 = s.arg1 ∧ t.arg2 = s.arg2 ∧ t.arg3 = s.arg3 ∧
    t.program = s.program ∧ t.turns = s.turns ∧ t.reads = s.reads ∧ t.fresh = s.fresh ∧
    (i ∉ [Instr.g32Next, .g32Bounded, .c64Next, .c64Step128, .c64Hq64, .c64Bounded] → t.res0 = s.res0) ∧
    (i ≠ .c64Step128 → t.res1 = s.res1) ∧
    (i ≠ .g32Seed → t.g.inc = s.g.inc) ∧
    (i ≠ .c64Seed → t.c.hi.inc = s.c.hi.inc ∧ t.c.lo.inc = s.c.lo.inc) ∧
    (i.groupFunc.1 = 0 → t.c = s.c) ∧ (i.groupFunc.1 = 1 → t.g = s.g)

/-- 30_encoding.md rule R61: whatever the operand registers hold beyond the bits a command reads, its effect is the same. -/
def Obligations.CommandsReadOnlyTheirOperands : Prop :=
  ∀ (i : Instr) (s : State) (a0 a1 a2 a3 : Word), operandsAgree i s a0 a1 a2 a3 →
    exec i (s.withArgs a0 a1 a2 a3) = mapNext (fun t => t.withArgs a0 a1 a2 a3) (exec i s)

/-! ### The window -/

/-- 20_memory.md rule R39: what a read of each register returns, with no register changed. While `BUSY = 1` the result and
state registers return "any u64": in the model the next free value, of which nothing is said, and its counter moves on. That
form, `Config.freeRead` of `State.fresh`, is the model's choice (log entry 3), not the rule's. -/
def Obligations.HostReadReturnsTheRegister : Prop :=
  ∀ s : State,
    hostRead .cmd s = (s.cmd, s) ∧ hostRead .arg0 s = (s.arg0, s) ∧ hostRead .arg1 s = (s.arg1, s) ∧
    hostRead .arg2 s = (s.arg2, s) ∧ hostRead .arg3 s = (s.arg3, s) ∧
    hostRead .status s = (BitVec.ofNat 64
      (s.status.errcode.toNat * 256 + s.status.err.toNat * 2 + s.pending.isSome.toNat), s) ∧
    (s.pending = none →
      hostRead .res0 s = (s.res0, s) ∧ hostRead .res1 s = (s.res1, s) ∧ hostRead .gState s = (s.g.state, s) ∧
      hostRead .gInc s = (s.g.inc, s) ∧ hostRead .hState s = (s.c.hi.state, s) ∧ hostRead .hInc s = (s.c.hi.inc, s) ∧
      hostRead .lState s = (s.c.lo.state, s) ∧ hostRead .lInc s = (s.c.lo.inc, s)) ∧
    ∀ w, s.pending = some w → ∀ r ∈ [Reg.res0, .res1, .gState, .gInc, .hState, .hInc, .lState, .lInc],
      hostRead r s = (Config.freeRead s.fresh, { s with fresh := s.fresh + 1 })

/-- 20_memory.md rule R40: the effect of a write to each register, in every state. -/
def Obligations.HostWriteHasItsEffect : Prop :=
  ∀ (s : State) (v : Word),
    (s.pending = none → legal v = true → hostWrite .cmd v s = { s with cmd := v, pending := some v }) ∧
    (s.pending = none → legal v = false → hostWrite .cmd v s = s.recordError .illegalCmd) ∧
    (∀ w, s.pending = some w → ∀ r ∈ [Reg.cmd, .arg0, .arg1, .arg2, .arg3],
      hostWrite r v s = s.recordError .busyWrite) ∧
    (s.pending = none → hostWrite .arg0 v s = { s with arg0 := v } ∧ hostWrite .arg1 v s = { s with arg1 := v } ∧
      hostWrite .arg2 v s = { s with arg2 := v } ∧ hostWrite .arg3 v s = { s with arg3 := v }) ∧
    (v.getLsbD 1 = true → hostWrite .status v s = { s with status := ⟨false, 0⟩ }) ∧
    (v.getLsbD 1 = false → hostWrite .status v s = s) ∧
    ∀ r ∈ [Reg.res0, .res1, .gState, .gInc, .hState, .hInc, .lState, .lInc], hostWrite r v s = s

/-- 10_state.md rule R24: the fields of `STATUS` bit by bit, and the legal values of `ERRCODE` kept by every host write. -/
def Obligations.StatusWordHasItsFields : Prop :=
  ∀ s : State,
    s.statusWord.getLsbD 0 = s.pending.isSome ∧ s.statusWord.getLsbD 1 = s.status.err ∧
    s.statusWord.extractLsb' 2 6 = 0 ∧ s.statusWord.extractLsb' 8 8 = s.status.errcode ∧
    s.statusWord.extractLsb' 16 48 = 0 ∧
    (∀ v : Word, v.getLsbD 1 = true → (hostWrite .status v s).status = ⟨false, 0⟩) ∧
    (∀ v : Word, v.getLsbD 1 = false → hostWrite .status v s = s) ∧
    (s.StatusOk → ∀ (r : Reg) (v : Word), (hostWrite r v s).StatusOk) ∧ State.reset.statusWord = 0

/-! ### Errors -/

/-- 60_exceptions.md rule R107. -/
def Obligations.IllegalCommandOnlyRecordsTheError : Prop :=
  ∀ (s : State) (v : Word), s.pending = none → legal v = false →
    hostWrite .cmd v s = s.recordError .illegalCmd ∧ (hostWrite .cmd v s).pending = none ∧
    (hostWrite .cmd v s).busy = false ∧
    (s.status.err = false → hostWrite .cmd v s = { s with status := ⟨true, 0x01⟩ }) ∧
    (s.status.err = true → hostWrite .cmd v s = s)

/-- 60_exceptions.md rule R108: the write is dropped, even an illegal command word is `BUSY_WRITE`, and the pending command
completes as if the write had not happened; writes to `STATUS` and to read-only registers record nothing. -/
def Obligations.BusyWriteIsDropped : Prop :=
  ∀ (s : State) (w v : Word), s.pending = some w →
    (∀ r ∈ [Reg.cmd, .arg0, .arg1, .arg2, .arg3],
      (s.status.err = false → hostWrite r v s = { s with status := ⟨true, 0x02⟩ }) ∧
      (s.status.err = true → hostWrite r v s = s) ∧
      blockStep (hostWrite r v s)
        = mapNext (fun t => { t with status := (hostWrite r v s).status }) (blockStep s)) ∧
    ∀ r ∈ [Reg.status, .res0, .res1, .gState, .gInc, .hState, .hInc, .lState, .lInc],
      (hostWrite r v s).status = s.status ∨ (hostWrite r v s).status = ⟨false, 0⟩

/-- 60_exceptions.md rule R106: a recorded error stays, with its code, through every step but the host's write-1-to-clear
and reset; and recording is only the first of several errors. -/
def Obligations.FirstErrorIsKeptUntilCleared : Prop :=
  (∀ (s : State) (e : ErrorCode), s.status.err = false → s.recordError e = { s with status := ⟨true, e.code⟩ }) ∧
  (∀ (s : State) (e : ErrorCode), s.status.err = true → s.recordError e = s) ∧
  ∀ s t : State, s.status.err = true → step s = .next t →
    t.status = s.status ∨ (s.turnNow = .reset ∧ t.status = ⟨false, 0⟩) ∨
      (s.turnNow = .host ∧ t.status = ⟨false, 0⟩ ∧
        ∃ v rest, s.program = .write 64 0x08 v :: rest ∧ v.getLsbD 1 = true)

/-! ### The step -/

/-- 20_memory.md rule R45: at the block's turn the step is the pending command's meaning, then `pending` is none. That it is
the block's turn when none is fixed and a command is pending is the model's default turn (log entry 5). -/
def Obligations.StepRunsThePendingCommand : Prop :=
  ∀ (s t : State) (w : Word) (i : Instr) (ts : List Turn), s.pending = some w → decode w = .command i →
    (s.turns = .block :: ts ∨ (s.turns = [] ∧ ts = [])) →
    (exec i { s with turns := ts } = .next t → step s = .next { t with pending := none }) ∧
    (∀ f, exec i { s with turns := ts } = .fault f → step s = .fault f) ∧
    (∀ r, exec i { s with turns := ts } = .refused r → step s = .refused r)

/-- 20_memory.md rules R37, R41, 30_encoding.md rule R63: at the host's turn the step is the host's next access, whole; a
`poll` stays until it has read `BUSY = 0`. Rules R45, 60_exceptions.md R122: with none pending the block's turn changes
nothing. The model's choices in it: that the host moves when no turn is fixed and none is pending (log entry 5), and that a
turn of an agent with nothing to do, the host without a statement or the block with none pending, is a step that only uses
the turn up (log entry 11). -/
def Obligations.StepPerformsTheHostsAccess : Prop :=
  (∀ (s : State) (ts : List Turn) (rest : List HostOp) (r : Reg) (v : Word),
    (s.turns = .host :: ts ∨ (s.turns = [] ∧ ts = [] ∧ s.pending = none)) →
    (s.program = .write 64 r.offset v :: rest →
      step s = .next { hostWrite r v { s with turns := ts } with program := rest }) ∧
    (s.program = .read 64 r.offset :: rest →
      step s = .next { (hostRead r { s with turns := ts }).2 with
        program := rest, reads := (hostRead r s).1 :: s.reads }) ∧
    (s.program = .poll :: rest → s.pending = none → step s = .next { s with turns := ts, program := rest }) ∧
    (s.program = .poll :: rest → s.pending ≠ none → step s = .next { s with turns := ts }) ∧
    (s.program = [] → step s = .next { s with turns := ts })) ∧
  ∀ (s : State) (ts : List Turn), s.turns = .block :: ts → s.pending = none → step s = .next { s with turns := ts }

/-- 20_memory.md rule R42: until it executes, a pending command and everything it reads stay as they were at its
acceptance. -/
def Obligations.OperandsAreFixedAtAcceptance : Prop :=
  (∀ (s : State) (v : Word), s.pending = none → legal v = true →
    hostWrite .cmd v s = { s with cmd := v, pending := some v }) ∧
  ∀ (s t : State) (w : Word), s.pending = some w → s.turnNow = .host → step s = .next t →
    t.pending = some w ∧ t.arg0 = s.arg0 ∧ t.arg1 = s.arg1 ∧ t.arg2 = s.arg2 ∧ t.arg3 = s.arg3 ∧
    t.g = s.g ∧ t.c = s.c ∧ t.cmd = s.cmd ∧ t.res0 = s.res0 ∧ t.res1 = s.res1

/-- 20_memory.md rules R37, R41, R42 (95_test_vectors.md P4 is one case): a defined host access just before or just after
the block's step makes no difference to the generators and results the command leaves. -/
def Obligations.HostAccessCommutesWithBlockStep : Prop :=
  ∀ (s t : State) (w : Word) (op : HostOp) (rest : List HostOp), s.pending = some w → s.program = op :: rest →
    op.wf = true → blockStep s = .next t →
    ∃ t1 t2, Host.Core.run Sys2Proof.core 2 { s with turns := [.host, .block] } = .next t1 ∧
      Host.Core.run Sys2Proof.core 2 { s with turns := [.block, .host] } = .next t2 ∧
      (∀ u ∈ [t1, t2], u.g = t.g ∧ u.c = t.c ∧ u.res0 = t.res0 ∧ u.res1 = t.res1)

/-- 20_memory.md rule R43: a `poll` ends only when no command is pending, and then every read of a result or state register
returns its value, until the host starts a command: no step but an accepting `CMD` write makes a command pending. -/
def Obligations.PollEndsOnlyAfterCompletion : Prop :=
  (∀ (s t : State) (rest : List HostOp), s.program = .poll :: rest → s.turnNow = .host → step s = .next t →
    (t.program = rest ∧ s.pending = none ∧ t.pending = none) ∨ (t.program = s.program ∧ s.pending ≠ none)) ∧
  (∀ (s : State) (r : Reg), s.pending = none → hostRead r s = (s.regValue r, s)) ∧
  ∀ s t : State, s.pending = none → step s = .next t → t.pending ≠ none →
    s.turnNow = .host ∧ ∃ v rest, s.program = .write 64 0x00 v :: rest ∧ legal v = true ∧ t.pending = some v

/-- 20_memory.md rule R46: whatever finite number of host accesses comes first, a pending command completes: with no reset
among the turns only the block's step leaves none pending, and `StepRunsThePendingCommand` gives what that step does. The
fairness is that of the model's schedule, which moves the block where no turn is fixed (log entry 5). -/
def Obligations.EveryPendingCommandCompletes : Prop :=
  ∀ (s : State) (w : Word), s.Inv → s.HostOk → Turn.reset ∉ s.turns → s.pending = some w →
    ∃ n t, n ≤ s.turns.length + 1 ∧ Host.Core.run Sys2Proof.core n s = .next t ∧ t.pending = none

/-- 60_exceptions.md rule R104, 70_reset_and_hazards.md rule R126: from a legal state, with a host that keeps the contract,
no number of steps ends in a fault or a refusal. That a run with nothing left to do goes on unchanged is the model's choice
(log entry 11). -/
def Obligations.LegalRunsNeverStop : Prop :=
  ∀ s : State, s.Inv → s.HostOk → s.Safe

/-- 70_reset_and_hazards.md rule R127: a command issued in the fixed order (its word to `CMD`, then `poll`) has run when the
`poll` ends, and its result is there to be read. Rests on the model's schedule where no turn is fixed (log entry 5). -/
def Obligations.IssueAndPollRunTheCommand : Prop :=
  ∀ (s t : State) (i : Instr) (rest : List HostOp), s.turns = [] → s.pending = none →
    s.program = .write 64 0x00 (encode i) :: .poll :: rest →
    exec i { s with cmd := encode i, pending := some (encode i), program := .poll :: rest } = .next t →
    Host.Core.run Sys2Proof.core 3 s = .next { t with pending := none, program := rest } ∧
    hostRead .res0 { t with pending := none, program := rest }
      = (t.res0, { t with pending := none, program := rest })

/-! ### Reset and invariants -/

/-- 70_reset_and_hazards.md rule R123, 10_state.md rule R30: reset discards a pending command and sets every piece of the
block's state to its reset value; an access issued during it is refused. The clause that the host's program and the turns to
come stay (`t.program`, `t.turns`) is the model's choice (log entry 14), no rule's. -/
def Obligations.ResetSetsEveryRegister : Prop :=
  ∀ (s : State) (ts : List Turn),
    (s.turns = .reset :: ts → ∃ t, step s = .next t ∧
      t.g = ⟨Config.resetGState, Config.resetGInc⟩ ∧
      t.c = ⟨⟨Config.resetHState, Config.resetHInc⟩, ⟨Config.resetLState, Config.resetLInc⟩⟩ ∧
      t.cmd = 0 ∧ t.status = ⟨false, 0⟩ ∧ t.arg0 = 0 ∧ t.arg1 = 0 ∧ t.arg2 = 0 ∧ t.arg3 = 0 ∧ t.res0 = 0 ∧ t.res1 = 0 ∧
      t.pending = none ∧ t.program = s.program ∧ t.turns = ts) ∧
    (s.turns = .hostInReset :: ts → step s = .refused .accessDuringReset)

/-- 70_reset_and_hazards.md rules R124, R125: the state after reset meets the invariant, with `STATUS` reading 0. The
last clause, `HostOk`, follows from no rule: it rests on the model's empty program and turns (log entries 9 and 5). -/
def Obligations.ResetMeetsTheInvariant : Prop :=
  State.reset.Inv ∧ State.reset.statusWord = 0 ∧ State.reset.pending = none ∧ State.reset.HostOk

/-- 10_state.md rule R18: the increments are odd at reset, and every step from a state whose increments are odd, reached or
not, leaves them odd. -/
def Obligations.StepKeepsIncrementsOdd : Prop :=
  State.reset.OddIncs ∧ (∀ s t : State, s.OddIncs → step s = .next t → t.OddIncs) ∧
  ∀ (n : Nat) (p : List HostOp) (ts : List Turn) (t : State),
    Host.Core.run Sys2Proof.core n { State.reset with program := p, turns := ts } = .next t → t.OddIncs

/-- 10_state.md rules R18, R23, R24, R28: every step keeps the whole invariant. -/
def Obligations.StepKeepsTheInvariant : Prop :=
  ∀ s t : State, s.Inv → step s = .next t → t.Inv
end

