-- ==== Sys2Proof/Laws/Functions.lean ====
section
/-! SUPPORT. The small lemmas of the base generator's functions: the LCG steps add up and are injective, and the number theory
behind the full period (40_base_generator.md rule R69). -/
namespace Sys2Proof.Machine

@[simp] theorem lcgSteps_zero (inc s : Word) : lcgSteps inc 0 s = s := rfl

theorem lcgSteps_succ (inc : Word) (n : Nat) (s : Word) :
    lcgSteps inc (n + 1) s = lcgSteps inc n (lcg64 s inc) := rfl

/-- Steps add up. -/
theorem lcgSteps_add (inc : Word) (m n : Nat) (s : Word) :
    lcgSteps inc (m + n) s = lcgSteps inc n (lcgSteps inc m s) := by
  induction m generalizing s with
  | zero => simp
  | succ m ih => rw [Nat.add_right_comm, lcgSteps_succ, ih, lcgSteps_succ]

/-- The last of `n + 1` steps, taken apart. -/
theorem lcgSteps_succ_last (inc : Word) (n : Nat) (s : Word) :
    lcgSteps inc (n + 1) s = lcg64 (lcgSteps inc n s) inc := lcgSteps_add inc n 1 s

/-- The multiplier is odd, hence invertible modulo 2^64: a step can be undone. -/
theorem lcg64_injective (inc : Word) : Function.Injective fun s => lcg64 s inc := by
  intro s t h
  have h : mult64 * s + inc = mult64 * t + inc := h
  have h2 : mult64 * s = mult64 * t := by simpa using h
  have h3 : (0xc097ef87329e28a5#64 * mult64) * s = (0xc097ef87329e28a5#64 * mult64) * t := by
    rw [BitVec.mul_assoc, BitVec.mul_assoc, h2]
  have hm : 0xc097ef87329e28a5#64 * mult64 = 1#64 := by decide
  simpa [hm] using h3

/-- For `a ≡ 1` modulo 4, the sum of the first `n` powers of `a` has exactly the factors 2 of `n`. -/
theorem two_pow_dvd_geomSum_iff (a : Nat) (ha : a % 4 = 1) (k n : Nat) :
    2 ^ k ∣ ∑ i ∈ Finset.range n, a ^ i ↔ 2 ^ k ∣ n := by
  have hodd : ∀ m, a ^ m % 4 = 1 := fun m => by
    induction m with
    | zero => rfl
    | succ m ih => rw [pow_succ, Nat.mul_mod, ih, ha]
  have hpar : ∀ m, (∑ i ∈ Finset.range m, a ^ i) % 2 = m % 2 := fun m => by
    induction m with
    | zero => rfl
    | succ m ih => rw [Finset.sum_range_succ]; have := hodd m; omega
  induction k generalizing n with
  | zero => simp
  | succ k ih =>
    rcases Nat.even_or_odd' n with ⟨m, rfl | rfl⟩
    · have hdouble : ∑ i ∈ Finset.range (2 * m), a ^ i = (∑ i ∈ Finset.range m, a ^ i) * (1 + a ^ m) := by
        rw [two_mul, Finset.sum_range_add, mul_add, mul_one, Finset.sum_mul]
        simp [pow_add, mul_comm]
      obtain ⟨q, hq⟩ : ∃ q, 1 + a ^ m = 2 * (2 * q + 1) := ⟨(a ^ m - 1) / 4, by have := hodd m; omega⟩
      rw [hdouble, hq, pow_succ, mul_comm (2 ^ k) 2, mul_left_comm, Nat.mul_dvd_mul_iff_left two_pos,
        Nat.mul_dvd_mul_iff_left two_pos]
      have hco : Nat.Coprime (2 ^ k) (2 * q + 1) := Nat.Coprime.pow_left k (by simp)
      exact hco.dvd_mul_right.trans (ih m)
    · have h1 := hpar (2 * m + 1)
      constructor <;> intro h <;> have := dvd_trans (dvd_pow_self 2 k.succ_ne_zero) h <;> omega

end Sys2Proof.Machine
end

