-- ==== Sys2Proof/Laws/State.lean ====
section
/-! SUPPORT. What each named update of the state leaves in each field: one lemma per field per update, so that no proof
unfolds a record update. -/

namespace Sys2Proof.Machine

/-! ### `writeGState` -/

@[simp] theorem State.writeGState_g (s : State) (w : Word) : (s.writeGState w).g = { s.g with state := w } := rfl
@[simp] theorem State.writeGState_c (s : State) (w : Word) : (s.writeGState w).c = s.c := rfl
@[simp] theorem State.writeGState_cmd (s : State) (w : Word) : (s.writeGState w).cmd = s.cmd := rfl
@[simp] theorem State.writeGState_status (s : State) (w : Word) : (s.writeGState w).status = s.status := rfl
@[simp] theorem State.writeGState_arg0 (s : State) (w : Word) : (s.writeGState w).arg0 = s.arg0 := rfl
@[simp] theorem State.writeGState_arg1 (s : State) (w : Word) : (s.writeGState w).arg1 = s.arg1 := rfl
@[simp] theorem State.writeGState_arg2 (s : State) (w : Word) : (s.writeGState w).arg2 = s.arg2 := rfl
@[simp] theorem State.writeGState_arg3 (s : State) (w : Word) : (s.writeGState w).arg3 = s.arg3 := rfl
@[simp] theorem State.writeGState_res0 (s : State) (w : Word) : (s.writeGState w).res0 = s.res0 := rfl
@[simp] theorem State.writeGState_res1 (s : State) (w : Word) : (s.writeGState w).res1 = s.res1 := rfl
@[simp] theorem State.writeGState_pending (s : State) (w : Word) : (s.writeGState w).pending = s.pending := rfl
@[simp] theorem State.writeGState_program (s : State) (w : Word) : (s.writeGState w).program = s.program := rfl
@[simp] theorem State.writeGState_turns (s : State) (w : Word) : (s.writeGState w).turns = s.turns := rfl
@[simp] theorem State.writeGState_reads (s : State) (w : Word) : (s.writeGState w).reads = s.reads := rfl
@[simp] theorem State.writeGState_fresh (s : State) (w : Word) : (s.writeGState w).fresh = s.fresh := rfl

/-! ### `writeG` -/

@[simp] theorem State.writeG_g (s : State) (w i : Word) : (s.writeG w i).g = ⟨w, i⟩ := rfl
@[simp] theorem State.writeG_c (s : State) (w i : Word) : (s.writeG w i).c = s.c := rfl
@[simp] theorem State.writeG_cmd (s : State) (w i : Word) : (s.writeG w i).cmd = s.cmd := rfl
@[simp] theorem State.writeG_status (s : State) (w i : Word) : (s.writeG w i).status = s.status := rfl
@[simp] theorem State.writeG_arg0 (s : State) (w i : Word) : (s.writeG w i).arg0 = s.arg0 := rfl
@[simp] theorem State.writeG_arg1 (s : State) (w i : Word) : (s.writeG w i).arg1 = s.arg1 := rfl
@[simp] theorem State.writeG_arg2 (s : State) (w i : Word) : (s.writeG w i).arg2 = s.arg2 := rfl
@[simp] theorem State.writeG_arg3 (s : State) (w i : Word) : (s.writeG w i).arg3 = s.arg3 := rfl
@[simp] theorem State.writeG_res0 (s : State) (w i : Word) : (s.writeG w i).res0 = s.res0 := rfl
@[simp] theorem State.writeG_res1 (s : State) (w i : Word) : (s.writeG w i).res1 = s.res1 := rfl
@[simp] theorem State.writeG_pending (s : State) (w i : Word) : (s.writeG w i).pending = s.pending := rfl
@[simp] theorem State.writeG_program (s : State) (w i : Word) : (s.writeG w i).program = s.program := rfl
@[simp] theorem State.writeG_turns (s : State) (w i : Word) : (s.writeG w i).turns = s.turns := rfl
@[simp] theorem State.writeG_reads (s : State) (w i : Word) : (s.writeG w i).reads = s.reads := rfl
@[simp] theorem State.writeG_fresh (s : State) (w i : Word) : (s.writeG w i).fresh = s.fresh := rfl

/-! ### `writeHL` -/

@[simp] theorem State.writeHL_g (s : State) (h l : Word) : (s.writeHL h l).g = s.g := rfl
@[simp] theorem State.writeHL_c (s : State) (h l : Word) : (s.writeHL h l).c = ⟨{ s.c.hi with state := h }, { s.c.lo with state := l }⟩ := rfl
@[simp] theorem State.writeHL_cmd (s : State) (h l : Word) : (s.writeHL h l).cmd = s.cmd := rfl
@[simp] theorem State.writeHL_status (s : State) (h l : Word) : (s.writeHL h l).status = s.status := rfl
@[simp] theorem State.writeHL_arg0 (s : State) (h l : Word) : (s.writeHL h l).arg0 = s.arg0 := rfl
@[simp] theorem State.writeHL_arg1 (s : State) (h l : Word) : (s.writeHL h l).arg1 = s.arg1 := rfl
@[simp] theorem State.writeHL_arg2 (s : State) (h l : Word) : (s.writeHL h l).arg2 = s.arg2 := rfl
@[simp] theorem State.writeHL_arg3 (s : State) (h l : Word) : (s.writeHL h l).arg3 = s.arg3 := rfl
@[simp] theorem State.writeHL_res0 (s : State) (h l : Word) : (s.writeHL h l).res0 = s.res0 := rfl
@[simp] theorem State.writeHL_res1 (s : State) (h l : Word) : (s.writeHL h l).res1 = s.res1 := rfl
@[simp] theorem State.writeHL_pending (s : State) (h l : Word) : (s.writeHL h l).pending = s.pending := rfl
@[simp] theorem State.writeHL_program (s : State) (h l : Word) : (s.writeHL h l).program = s.program := rfl
@[simp] theorem State.writeHL_turns (s : State) (h l : Word) : (s.writeHL h l).turns = s.turns := rfl
@[simp] theorem State.writeHL_reads (s : State) (h l : Word) : (s.writeHL h l).reads = s.reads := rfl
@[simp] theorem State.writeHL_fresh (s : State) (h l : Word) : (s.writeHL h l).fresh = s.fresh := rfl

/-! ### `writeC` -/

@[simp] theorem State.writeC_g (s : State) (h l : Gen) : (s.writeC h l).g = s.g := rfl
@[simp] theorem State.writeC_c (s : State) (h l : Gen) : (s.writeC h l).c = ⟨h, l⟩ := rfl
@[simp] theorem State.writeC_cmd (s : State) (h l : Gen) : (s.writeC h l).cmd = s.cmd := rfl
@[simp] theorem State.writeC_status (s : State) (h l : Gen) : (s.writeC h l).status = s.status := rfl
@[simp] theorem State.writeC_arg0 (s : State) (h l : Gen) : (s.writeC h l).arg0 = s.arg0 := rfl
@[simp] theorem State.writeC_arg1 (s : State) (h l : Gen) : (s.writeC h l).arg1 = s.arg1 := rfl
@[simp] theorem State.writeC_arg2 (s : State) (h l : Gen) : (s.writeC h l).arg2 = s.arg2 := rfl
@[simp] theorem State.writeC_arg3 (s : State) (h l : Gen) : (s.writeC h l).arg3 = s.arg3 := rfl
@[simp] theorem State.writeC_res0 (s : State) (h l : Gen) : (s.writeC h l).res0 = s.res0 := rfl
@[simp] theorem State.writeC_res1 (s : State) (h l : Gen) : (s.writeC h l).res1 = s.res1 := rfl
@[simp] theorem State.writeC_pending (s : State) (h l : Gen) : (s.writeC h l).pending = s.pending := rfl
@[simp] theorem State.writeC_program (s : State) (h l : Gen) : (s.writeC h l).program = s.program := rfl
@[simp] theorem State.writeC_turns (s : State) (h l : Gen) : (s.writeC h l).turns = s.turns := rfl
@[simp] theorem State.writeC_reads (s : State) (h l : Gen) : (s.writeC h l).reads = s.reads := rfl
@[simp] theorem State.writeC_fresh (s : State) (h l : Gen) : (s.writeC h l).fresh = s.fresh := rfl

/-! ### `writeRes0` -/

@[simp] theorem State.writeRes0_g (s : State) (v : Word) : (s.writeRes0 v).g = s.g := rfl
@[simp] theorem State.writeRes0_c (s : State) (v : Word) : (s.writeRes0 v).c = s.c := rfl
@[simp] theorem State.writeRes0_cmd (s : State) (v : Word) : (s.writeRes0 v).cmd = s.cmd := rfl
@[simp] theorem State.writeRes0_status (s : State) (v : Word) : (s.writeRes0 v).status = s.status := rfl
@[simp] theorem State.writeRes0_arg0 (s : State) (v : Word) : (s.writeRes0 v).arg0 = s.arg0 := rfl
@[simp] theorem State.writeRes0_arg1 (s : State) (v : Word) : (s.writeRes0 v).arg1 = s.arg1 := rfl
@[simp] theorem State.writeRes0_arg2 (s : State) (v : Word) : (s.writeRes0 v).arg2 = s.arg2 := rfl
@[simp] theorem State.writeRes0_arg3 (s : State) (v : Word) : (s.writeRes0 v).arg3 = s.arg3 := rfl
@[simp] theorem State.writeRes0_res0 (s : State) (v : Word) : (s.writeRes0 v).res0 = v := rfl
@[simp] theorem State.writeRes0_res1 (s : State) (v : Word) : (s.writeRes0 v).res1 = s.res1 := rfl
@[simp] theorem State.writeRes0_pending (s : State) (v : Word) : (s.writeRes0 v).pending = s.pending := rfl
@[simp] theorem State.writeRes0_program (s : State) (v : Word) : (s.writeRes0 v).program = s.program := rfl
@[simp] theorem State.writeRes0_turns (s : State) (v : Word) : (s.writeRes0 v).turns = s.turns := rfl
@[simp] theorem State.writeRes0_reads (s : State) (v : Word) : (s.writeRes0 v).reads = s.reads := rfl
@[simp] theorem State.writeRes0_fresh (s : State) (v : Word) : (s.writeRes0 v).fresh = s.fresh := rfl

/-! ### `writeRes1` -/

@[simp] theorem State.writeRes1_g (s : State) (v : Word) : (s.writeRes1 v).g = s.g := rfl
@[simp] theorem State.writeRes1_c (s : State) (v : Word) : (s.writeRes1 v).c = s.c := rfl
@[simp] theorem State.writeRes1_cmd (s : State) (v : Word) : (s.writeRes1 v).cmd = s.cmd := rfl
@[simp] theorem State.writeRes1_status (s : State) (v : Word) : (s.writeRes1 v).status = s.status := rfl
@[simp] theorem State.writeRes1_arg0 (s : State) (v : Word) : (s.writeRes1 v).arg0 = s.arg0 := rfl
@[simp] theorem State.writeRes1_arg1 (s : State) (v : Word) : (s.writeRes1 v).arg1 = s.arg1 := rfl
@[simp] theorem State.writeRes1_arg2 (s : State) (v : Word) : (s.writeRes1 v).arg2 = s.arg2 := rfl
@[simp] theorem State.writeRes1_arg3 (s : State) (v : Word) : (s.writeRes1 v).arg3 = s.arg3 := rfl
@[simp] theorem State.writeRes1_res0 (s : State) (v : Word) : (s.writeRes1 v).res0 = s.res0 := rfl
@[simp] theorem State.writeRes1_res1 (s : State) (v : Word) : (s.writeRes1 v).res1 = v := rfl
@[simp] theorem State.writeRes1_pending (s : State) (v : Word) : (s.writeRes1 v).pending = s.pending := rfl
@[simp] theorem State.writeRes1_program (s : State) (v : Word) : (s.writeRes1 v).program = s.program := rfl
@[simp] theorem State.writeRes1_turns (s : State) (v : Word) : (s.writeRes1 v).turns = s.turns := rfl
@[simp] theorem State.writeRes1_reads (s : State) (v : Word) : (s.writeRes1 v).reads = s.reads := rfl
@[simp] theorem State.writeRes1_fresh (s : State) (v : Word) : (s.writeRes1 v).fresh = s.fresh := rfl

/-! ### `writeRes32` -/

@[simp] theorem State.writeRes32_g (s : State) (v : Word32) : (s.writeRes32 v).g = s.g := rfl
@[simp] theorem State.writeRes32_c (s : State) (v : Word32) : (s.writeRes32 v).c = s.c := rfl
@[simp] theorem State.writeRes32_cmd (s : State) (v : Word32) : (s.writeRes32 v).cmd = s.cmd := rfl
@[simp] theorem State.writeRes32_status (s : State) (v : Word32) : (s.writeRes32 v).status = s.status := rfl
@[simp] theorem State.writeRes32_arg0 (s : State) (v : Word32) : (s.writeRes32 v).arg0 = s.arg0 := rfl
@[simp] theorem State.writeRes32_arg1 (s : State) (v : Word32) : (s.writeRes32 v).arg1 = s.arg1 := rfl
@[simp] theorem State.writeRes32_arg2 (s : State) (v : Word32) : (s.writeRes32 v).arg2 = s.arg2 := rfl
@[simp] theorem State.writeRes32_arg3 (s : State) (v : Word32) : (s.writeRes32 v).arg3 = s.arg3 := rfl
@[simp] theorem State.writeRes32_res0 (s : State) (v : Word32) : (s.writeRes32 v).res0 = v.setWidth 64 := rfl
@[simp] theorem State.writeRes32_res1 (s : State) (v : Word32) : (s.writeRes32 v).res1 = s.res1 := rfl
@[simp] theorem State.writeRes32_pending (s : State) (v : Word32) : (s.writeRes32 v).pending = s.pending := rfl
@[simp] theorem State.writeRes32_program (s : State) (v : Word32) : (s.writeRes32 v).program = s.program := rfl
@[simp] theorem State.writeRes32_turns (s : State) (v : Word32) : (s.writeRes32 v).turns = s.turns := rfl
@[simp] theorem State.writeRes32_reads (s : State) (v : Word32) : (s.writeRes32 v).reads = s.reads := rfl
@[simp] theorem State.writeRes32_fresh (s : State) (v : Word32) : (s.writeRes32 v).fresh = s.fresh := rfl

/-! ### `accept` -/

@[simp] theorem State.accept_g (s : State) (v : Word) : (s.accept v).g = s.g := rfl
@[simp] theorem State.accept_c (s : State) (v : Word) : (s.accept v).c = s.c := rfl
@[simp] theorem State.accept_cmd (s : State) (v : Word) : (s.accept v).cmd = v := rfl
@[simp] theorem State.accept_status (s : State) (v : Word) : (s.accept v).status = s.status := rfl
@[simp] theorem State.accept_arg0 (s : State) (v : Word) : (s.accept v).arg0 = s.arg0 := rfl
@[simp] theorem State.accept_arg1 (s : State) (v : Word) : (s.accept v).arg1 = s.arg1 := rfl
@[simp] theorem State.accept_arg2 (s : State) (v : Word) : (s.accept v).arg2 = s.arg2 := rfl
@[simp] theorem State.accept_arg3 (s : State) (v : Word) : (s.accept v).arg3 = s.arg3 := rfl
@[simp] theorem State.accept_res0 (s : State) (v : Word) : (s.accept v).res0 = s.res0 := rfl
@[simp] theorem State.accept_res1 (s : State) (v : Word) : (s.accept v).res1 = s.res1 := rfl
@[simp] theorem State.accept_pending (s : State) (v : Word) : (s.accept v).pending = some v := rfl
@[simp] theorem State.accept_program (s : State) (v : Word) : (s.accept v).program = s.program := rfl
@[simp] theorem State.accept_turns (s : State) (v : Word) : (s.accept v).turns = s.turns := rfl
@[simp] theorem State.accept_reads (s : State) (v : Word) : (s.accept v).reads = s.reads := rfl
@[simp] theorem State.accept_fresh (s : State) (v : Word) : (s.accept v).fresh = s.fresh := rfl

/-! ### `complete` -/

@[simp] theorem State.complete_g (s : State) : s.complete.g = s.g := rfl
@[simp] theorem State.complete_c (s : State) : s.complete.c = s.c := rfl
@[simp] theorem State.complete_cmd (s : State) : s.complete.cmd = s.cmd := rfl
@[simp] theorem State.complete_status (s : State) : s.complete.status = s.status := rfl
@[simp] theorem State.complete_arg0 (s : State) : s.complete.arg0 = s.arg0 := rfl
@[simp] theorem State.complete_arg1 (s : State) : s.complete.arg1 = s.arg1 := rfl
@[simp] theorem State.complete_arg2 (s : State) : s.complete.arg2 = s.arg2 := rfl
@[simp] theorem State.complete_arg3 (s : State) : s.complete.arg3 = s.arg3 := rfl
@[simp] theorem State.complete_res0 (s : State) : s.complete.res0 = s.res0 := rfl
@[simp] theorem State.complete_res1 (s : State) : s.complete.res1 = s.res1 := rfl
@[simp] theorem State.complete_pending (s : State) : s.complete.pending = none := rfl
@[simp] theorem State.complete_program (s : State) : s.complete.program = s.program := rfl
@[simp] theorem State.complete_turns (s : State) : s.complete.turns = s.turns := rfl
@[simp] theorem State.complete_reads (s : State) : s.complete.reads = s.reads := rfl
@[simp] theorem State.complete_fresh (s : State) : s.complete.fresh = s.fresh := rfl

/-! ### `clearError` -/

@[simp] theorem State.clearError_g (s : State) : s.clearError.g = s.g := rfl
@[simp] theorem State.clearError_c (s : State) : s.clearError.c = s.c := rfl
@[simp] theorem State.clearError_cmd (s : State) : s.clearError.cmd = s.cmd := rfl
@[simp] theorem State.clearError_status (s : State) : s.clearError.status = ⟨false, 0⟩ := rfl
@[simp] theorem State.clearError_arg0 (s : State) : s.clearError.arg0 = s.arg0 := rfl
@[simp] theorem State.clearError_arg1 (s : State) : s.clearError.arg1 = s.arg1 := rfl
@[simp] theorem State.clearError_arg2 (s : State) : s.clearError.arg2 = s.arg2 := rfl
@[simp] theorem State.clearError_arg3 (s : State) : s.clearError.arg3 = s.arg3 := rfl
@[simp] theorem State.clearError_res0 (s : State) : s.clearError.res0 = s.res0 := rfl
@[simp] theorem State.clearError_res1 (s : State) : s.clearError.res1 = s.res1 := rfl
@[simp] theorem State.clearError_pending (s : State) : s.clearError.pending = s.pending := rfl
@[simp] theorem State.clearError_program (s : State) : s.clearError.program = s.program := rfl
@[simp] theorem State.clearError_turns (s : State) : s.clearError.turns = s.turns := rfl
@[simp] theorem State.clearError_reads (s : State) : s.clearError.reads = s.reads := rfl
@[simp] theorem State.clearError_fresh (s : State) : s.clearError.fresh = s.fresh := rfl

/-! ### `applyReset` (70_reset_and_hazards.md rule R123) -/

@[simp] theorem State.applyReset_g (s : State) : s.applyReset.g = ⟨Config.resetGState, Config.resetGInc⟩ := rfl
@[simp] theorem State.applyReset_c (s : State) : s.applyReset.c = ⟨⟨Config.resetHState, Config.resetHInc⟩, ⟨Config.resetLState, Config.resetLInc⟩⟩ := rfl
@[simp] theorem State.applyReset_cmd (s : State) : s.applyReset.cmd = 0 := rfl
@[simp] theorem State.applyReset_status (s : State) : s.applyReset.status = ⟨false, 0⟩ := rfl
@[simp] theorem State.applyReset_arg0 (s : State) : s.applyReset.arg0 = 0 := rfl
@[simp] theorem State.applyReset_arg1 (s : State) : s.applyReset.arg1 = 0 := rfl
@[simp] theorem State.applyReset_arg2 (s : State) : s.applyReset.arg2 = 0 := rfl
@[simp] theorem State.applyReset_arg3 (s : State) : s.applyReset.arg3 = 0 := rfl
@[simp] theorem State.applyReset_res0 (s : State) : s.applyReset.res0 = 0 := rfl
@[simp] theorem State.applyReset_res1 (s : State) : s.applyReset.res1 = 0 := rfl
@[simp] theorem State.applyReset_pending (s : State) : s.applyReset.pending = none := rfl
@[simp] theorem State.applyReset_program (s : State) : s.applyReset.program = s.program := rfl
@[simp] theorem State.applyReset_turns (s : State) : s.applyReset.turns = s.turns := rfl
@[simp] theorem State.applyReset_reads (s : State) : s.applyReset.reads = s.reads := rfl
@[simp] theorem State.applyReset_fresh (s : State) : s.applyReset.fresh = s.fresh := rfl

/-! ### `recordError` (60_exceptions.md rule R106) -/

@[simp] theorem State.recordError_g (s : State) (e : ErrorCode) : (s.recordError e).g = s.g := by
  unfold State.recordError; split <;> rfl
@[simp] theorem State.recordError_c (s : State) (e : ErrorCode) : (s.recordError e).c = s.c := by
  unfold State.recordError; split <;> rfl
@[simp] theorem State.recordError_cmd (s : State) (e : ErrorCode) : (s.recordError e).cmd = s.cmd := by
  unfold State.recordError; split <;> rfl
@[simp] theorem State.recordError_arg0 (s : State) (e : ErrorCode) : (s.recordError e).arg0 = s.arg0 := by
  unfold State.recordError; split <;> rfl
@[simp] theorem State.recordError_arg1 (s : State) (e : ErrorCode) : (s.recordError e).arg1 = s.arg1 := by
  unfold State.recordError; split <;> rfl
@[simp] theorem State.recordError_arg2 (s : State) (e : ErrorCode) : (s.recordError e).arg2 = s.arg2 := by
  unfold State.recordError; split <;> rfl
@[simp] theorem State.recordError_arg3 (s : State) (e : ErrorCode) : (s.recordError e).arg3 = s.arg3 := by
  unfold State.recordError; split <;> rfl
@[simp] theorem State.recordError_res0 (s : State) (e : ErrorCode) : (s.recordError e).res0 = s.res0 := by
  unfold State.recordError; split <;> rfl
@[simp] theorem State.recordError_res1 (s : State) (e : ErrorCode) : (s.recordError e).res1 = s.res1 := by
  unfold State.recordError; split <;> rfl
@[simp] theorem State.recordError_pending (s : State) (e : ErrorCode) : (s.recordError e).pending = s.pending := by
  unfold State.recordError; split <;> rfl
@[simp] theorem State.recordError_program (s : State) (e : ErrorCode) : (s.recordError e).program = s.program := by
  unfold State.recordError; split <;> rfl
@[simp] theorem State.recordError_turns (s : State) (e : ErrorCode) : (s.recordError e).turns = s.turns := by
  unfold State.recordError; split <;> rfl
@[simp] theorem State.recordError_reads (s : State) (e : ErrorCode) : (s.recordError e).reads = s.reads := by
  unfold State.recordError; split <;> rfl
@[simp] theorem State.recordError_fresh (s : State) (e : ErrorCode) : (s.recordError e).fresh = s.fresh := by
  unfold State.recordError; split <;> rfl

/-- The status after an error: the first code since the last clear is kept. -/
theorem State.recordError_status (s : State) (e : ErrorCode) :
    (s.recordError e).status = if s.status.err then s.status else ⟨true, e.code⟩ := by
  unfold State.recordError; split <;> rfl

/-- Recording an error changes the status alone. -/
theorem State.recordError_eq (s : State) (e : ErrorCode) :
    s.recordError e = { s with status := (s.recordError e).status } := by
  unfold State.recordError; split <;> rfl

/-! ### `BUSY` reads `pending` -/

@[simp] theorem State.busy_accept (s : State) (v : Word) : (s.accept v).busy = true := rfl
@[simp] theorem State.busy_complete (s : State) : s.complete.busy = false := rfl
@[simp] theorem State.busy_applyReset (s : State) : s.applyReset.busy = false := rfl

theorem State.busy_eq_true_iff (s : State) : s.busy = true ↔ ∃ w, s.pending = some w := by
  simp [State.busy, Option.isSome_iff_exists]

theorem State.busy_eq_false_iff (s : State) : s.busy = false ↔ s.pending = none := by
  simp [State.busy]

/-! ### `hostWrite` (20_memory.md rule R40): the fields no host write touches -/

@[simp] theorem hostWrite_g (r : Reg) (v : Word) (s : State) : (hostWrite r v s).g = s.g := by
  cases r <;> simp only [hostWrite, writeCmd, writeArg] <;> (try split) <;> (try split) <;> simp
@[simp] theorem hostWrite_c (r : Reg) (v : Word) (s : State) : (hostWrite r v s).c = s.c := by
  cases r <;> simp only [hostWrite, writeCmd, writeArg] <;> (try split) <;> (try split) <;> simp
@[simp] theorem hostWrite_res0 (r : Reg) (v : Word) (s : State) : (hostWrite r v s).res0 = s.res0 := by
  cases r <;> simp only [hostWrite, writeCmd, writeArg] <;> (try split) <;> (try split) <;> simp
@[simp] theorem hostWrite_res1 (r : Reg) (v : Word) (s : State) : (hostWrite r v s).res1 = s.res1 := by
  cases r <;> simp only [hostWrite, writeCmd, writeArg] <;> (try split) <;> (try split) <;> simp
@[simp] theorem hostWrite_program (r : Reg) (v : Word) (s : State) : (hostWrite r v s).program = s.program := by
  cases r <;> simp only [hostWrite, writeCmd, writeArg] <;> (try split) <;> (try split) <;> simp
@[simp] theorem hostWrite_turns (r : Reg) (v : Word) (s : State) : (hostWrite r v s).turns = s.turns := by
  cases r <;> simp only [hostWrite, writeCmd, writeArg] <;> (try split) <;> (try split) <;> simp
@[simp] theorem hostWrite_reads (r : Reg) (v : Word) (s : State) : (hostWrite r v s).reads = s.reads := by
  cases r <;> simp only [hostWrite, writeCmd, writeArg] <;> (try split) <;> (try split) <;> simp
@[simp] theorem hostWrite_fresh (r : Reg) (v : Word) (s : State) : (hostWrite r v s).fresh = s.fresh := by
  cases r <;> simp only [hostWrite, writeCmd, writeArg] <;> (try split) <;> (try split) <;> simp

/-! ### `hostRead` (20_memory.md rule R39): only the model's own counter can move -/

@[simp] theorem hostRead_g (r : Reg) (s : State) : (hostRead r s).2.g = s.g := by
  unfold hostRead; split <;> rfl
@[simp] theorem hostRead_c (r : Reg) (s : State) : (hostRead r s).2.c = s.c := by
  unfold hostRead; split <;> rfl
@[simp] theorem hostRead_cmd (r : Reg) (s : State) : (hostRead r s).2.cmd = s.cmd := by
  unfold hostRead; split <;> rfl
@[simp] theorem hostRead_status (r : Reg) (s : State) : (hostRead r s).2.status = s.status := by
  unfold hostRead; split <;> rfl
@[simp] theorem hostRead_arg0 (r : Reg) (s : State) : (hostRead r s).2.arg0 = s.arg0 := by
  unfold hostRead; split <;> rfl
@[simp] theorem hostRead_arg1 (r : Reg) (s : State) : (hostRead r s).2.arg1 = s.arg1 := by
  unfold hostRead; split <;> rfl
@[simp] theorem hostRead_arg2 (r : Reg) (s : State) : (hostRead r s).2.arg2 = s.arg2 := by
  unfold hostRead; split <;> rfl
@[simp] theorem hostRead_arg3 (r : Reg) (s : State) : (hostRead r s).2.arg3 = s.arg3 := by
  unfold hostRead; split <;> rfl
@[simp] theorem hostRead_res0 (r : Reg) (s : State) : (hostRead r s).2.res0 = s.res0 := by
  unfold hostRead; split <;> rfl
@[simp] theorem hostRead_res1 (r : Reg) (s : State) : (hostRead r s).2.res1 = s.res1 := by
  unfold hostRead; split <;> rfl
@[simp] theorem hostRead_pending (r : Reg) (s : State) : (hostRead r s).2.pending = s.pending := by
  unfold hostRead; split <;> rfl
@[simp] theorem hostRead_program (r : Reg) (s : State) : (hostRead r s).2.program = s.program := by
  unfold hostRead; split <;> rfl
@[simp] theorem hostRead_turns (r : Reg) (s : State) : (hostRead r s).2.turns = s.turns := by
  unfold hostRead; split <;> rfl
@[simp] theorem hostRead_reads (r : Reg) (s : State) : (hostRead r s).2.reads = s.reads := by
  unfold hostRead; split <;> rfl

end Sys2Proof.Machine
end

