-- ==== Sys2Proof/Laws/Ops.lean ====
section
/-! SUPPORT. What each shared operation can do, said once: the rejection loop, the samplers' answer, the frame common to all
commands, and the turns of a step. -/

namespace Sys2Proof.Machine

section sampling

variable {n : Nat} {σ : Type} (draw : σ → BitVec n × σ) (thr bound : BitVec n)

/-- An accepted first draw ends the loop (40_base_generator.md rule R74). -/
theorem rejectionLoop_accept (k : Nat) (s : σ) (h : thr ≤ (draw s).1) :
    rejectionLoop draw thr bound (k + 1) s = some ((draw s).1 % bound, (draw s).2) := by
  simp [rejectionLoop, h]

/-- A rejected first draw advances the state all the same. -/
theorem rejectionLoop_reject (k : Nat) (s : σ) (h : ¬ thr ≤ (draw s).1) :
    rejectionLoop draw thr bound (k + 1) s = rejectionLoop draw thr bound k (draw s).2 := by
  simp [rejectionLoop, h]

/-- Bound 0 draws nothing. -/
theorem bounded_zero (limit : Nat) (s : σ) : bounded draw limit 0 s = some (0, s) := by
  simp [bounded]

/-- Any other bound runs the loop. -/
theorem bounded_of_ne_zero (limit : Nat) (s : σ) (h : bound ≠ 0) :
    bounded draw limit bound s = rejectionLoop draw (threshold bound) bound limit s :=
  if_neg h

end sampling

/-- A sampler's answer is a next state exactly when the loop accepted a draw. -/
theorem finishSample_next {α : Type} (r : Option α) (write : α → State) (t : State) :
    finishSample r write = .next t ↔ ∃ a, r = some a ∧ t = write a := by
  cases r <;> simp [finishSample, eq_comm]

/-- Everything any command can change: the generator registers and the two results (20_memory.md rule R45). -/
theorem exec_next_form (i : Instr) (s t : State) (h : exec i s = .next t) :
    t = { s with g := t.g, c := t.c, res0 := t.res0, res1 := t.res1 } := by
  cases i
  case g32Bounded | c64Bounded =>
    obtain ⟨a, -, rfl⟩ := (finishSample_next _ _ _).1 h
    rfl
  all_goals
    cases h
    rfl

/-- An executed command's next state is one of its meaning's, with nothing pending. -/
theorem completing_next (o : Host.Outcome State Fault Refusal) (t : State) :
    completing o = .next t ↔ ∃ u, o = .next u ∧ t = u.complete := by
  cases o <;> simp [completing, eq_comm]

/-- A step takes the next fixed turn. -/
theorem step_of_turn (s : State) (t : Turn) (ts : List Turn) (h : s.turns = t :: ts) :
    step s = takeTurn t { s with turns := ts } := by
  simp [step, nextTurn, h]

/-- With no turn fixed, a step takes the default one. -/
theorem step_of_no_turn (s : State) (h : s.turns = []) : step s = takeTurn (defaultTurn s) s := by
  simp [step, nextTurn, h]

/-- The block's step on a pending legal word. -/
theorem blockStep_of_command (s : State) (w : Word) (i : Instr) (h : s.pending = some w)
    (hd : decode w = .command i) : blockStep s = completing (exec i s) := by
  simp [blockStep, h, hd]

/-- The block has no step with none pending (20_memory.md rule R45). -/
theorem blockStep_of_idle (s : State) (h : s.pending = none) : blockStep s = .next s := by
  simp [blockStep, h]

/-- What the block's step can do when it answers a next state. -/
theorem blockStep_next_cases (s t : State) (h : blockStep s = .next t) :
    (s.pending = none ∧ t = s) ∨
      ∃ w i u, s.pending = some w ∧ decode w = .command i ∧ exec i s = .next u ∧ t = u.complete := by
  unfold blockStep at h
  split at h
  · next hp => cases h; exact .inl ⟨hp, rfl⟩
  · next w hp =>
    split at h
    · next i hd =>
      obtain ⟨u, hu, rfl⟩ := (completing_next _ _).1 h
      exact .inr ⟨w, i, u, hp, hd, hu, rfl⟩
    · cases h

/-- What the host's step can do when it answers a next state. -/
theorem hostStep_next_cases (s t : State) (h : hostStep s = .next t) :
    (s.program = [] ∧ t = s) ∨
      (∃ width off v rest r, s.program = .write width off v :: rest ∧ accessTarget width off = some r ∧
        t = { hostWrite r v s with program := rest }) ∨
      (∃ width off rest r, s.program = .read width off :: rest ∧ accessTarget width off = some r ∧
        t = { (hostRead r s).2 with program := rest, reads := (hostRead r s).1 :: s.reads }) ∨
      (∃ rest, s.program = .poll :: rest ∧
        ((s.statusWord.getLsbD 0 = true ∧ t = s) ∨
          (s.statusWord.getLsbD 0 = false ∧ t = { s with program := rest }))) := by
  unfold hostStep at h
  split at h
  · next hp => cases h; exact .inl ⟨hp, rfl⟩
  · next width off v rest hp =>
    split at h
    · next r hr => cases h; exact .inr (.inl ⟨_, _, _, _, r, hp, hr, rfl⟩)
    · cases h
  · next width off rest hp =>
    split at h
    · next r hr => cases h; exact .inr (.inr (.inl ⟨_, _, _, r, hp, hr, rfl⟩))
    · cases h
  · next rest hp =>
    refine .inr (.inr (.inr ⟨rest, hp, ?_⟩))
    have hs : (hostRead .status s).1 = s.statusWord := by simp [hostRead, freeWhileBusy, State.regValue]
    rw [hs] at h
    split at h
    · next hb => cases h; exact .inl ⟨hb, rfl⟩
    · next hb => cases h; exact .inr ⟨by simpa using hb, rfl⟩

/-- What a turn can do when it answers a next state. -/
theorem takeTurn_next_cases (k : Turn) (s t : State) (h : takeTurn k s = .next t) :
    (k = .host ∧ hostStep s = .next t) ∨ (k = .block ∧ blockStep s = .next t) ∨
      (k = .reset ∧ t = s.applyReset) := by
  cases k
  · exact .inl ⟨rfl, h⟩
  · exact .inr (.inl ⟨rfl, h⟩)
  · cases h; exact .inr (.inr ⟨rfl, rfl⟩)
  · cases h

/-- What a step can do when it answers a next state: one turn, from the state whose turns are those left. -/
theorem step_next_cases (s t : State) (h : step s = .next t) :
    ∃ k ts, takeTurn k { s with turns := ts } = .next t ∧
      ((s.turns = k :: ts) ∨ (s.turns = [] ∧ ts = [] ∧ k = defaultTurn s)) := by
  cases hts : s.turns with
  | nil =>
    rw [step_of_no_turn s hts] at h
    refine ⟨defaultTurn s, [], ?_, .inr ⟨rfl, rfl, rfl⟩⟩
    have hs : ({ s with turns := [] } : State) = s := by cases s; simp_all
    rw [hs]
    exact h
  | cons k ts =>
    rw [step_of_turn s k ts hts] at h
    exact ⟨k, ts, h, .inl rfl⟩

end Sys2Proof.Machine
end

