-- ==== Sys2Proof/Laws/PerInstr.lean ====
section
/-! SUPPORT. What is said of every command as syntax, command by command: the family `RoundTrip` (30_encoding.md rules R54,
R60). -/

namespace Sys2Proof.Laws.RoundTrip

/-- The command is well-formed, its word is legal, and decoding that word gives the command back. -/
def Statement (i : Instr) : Prop := i.wf = true ∧ legal (encode i) = true ∧ decode (encode i) = .command i

theorem g32Seed : Statement .g32Seed := by unfold Statement; decide
theorem g32Next : Statement .g32Next := by unfold Statement; decide
theorem g32Bounded : Statement .g32Bounded := by unfold Statement; decide
theorem g32Jump : Statement .g32Jump := by unfold Statement; decide
theorem g32JumpBack : Statement .g32JumpBack := by unfold Statement; decide
theorem g32Load : Statement .g32Load := by unfold Statement; decide
theorem c64Seed : Statement .c64Seed := by unfold Statement; decide
theorem c64Next : Statement .c64Next := by unfold Statement; decide
theorem c64Bounded : Statement .c64Bounded := by unfold Statement; decide
theorem c64Jump : Statement .c64Jump := by unfold Statement; decide
theorem c64JumpBack : Statement .c64JumpBack := by unfold Statement; decide
theorem c64Load : Statement .c64Load := by unfold Statement; decide
theorem c64Step128 : Statement .c64Step128 := by unfold Statement; decide
theorem c64Hq64 : Statement .c64Hq64 := by unfold Statement; decide

end Sys2Proof.Laws.RoundTrip
end

