-- ==== Sys2Proof/Tests/Slice0.lean ====
section
/-! SUPPORT. Tests of the model. Every expected number is copied from the spec: an encoding table, a rule's example, or a
vector V<n> of 95_test_vectors.md, which its comment names. -/

namespace Sys2Proof.Tests

open Sys2Proof Sys2Proof.Machine

/-- The next state of an outcome, if it is one. -/
def nextOf : Host.Outcome State Fault Refusal → Option State
  | .next t => some t
  | .fault _ => none
  | .refused _ => none

/-- A small state: `G`, `C` and the first two operands given, everything else as reset leaves it. -/
def at_ (g : Gen) (c : Comp) (a0 a1 : Word) : State where
  g := g
  c := c
  cmd := 0
  status := ⟨false, 0⟩
  arg0 := a0
  arg1 := a1
  arg2 := 0
  arg3 := 0
  res0 := 0
  res1 := 0
  pending := none
  program := []
  turns := []
  reads := []
  fresh := 0

/-- `C` after `C64_SEED 1, 2, 3, 4` (V9). -/
def seededC : Comp := ⟨⟨0xcb857df24a6c76f8, 9⟩, ⟨0xc28fa16a64abf96f, 7⟩⟩

/-- `G` after `G32_SEED 42, 54` (V1). -/
def seededG : Gen := ⟨0x185706b82c2e03f8, 0x6d⟩

/-- `G` seeded, with one operand. -/
def baseAt (a0 : Word) : State := at_ seededG seededC a0 0

/-- The base generator and `RES0` after a command. -/
def baseAfter (i : Instr) (s : State) : Option (Gen × Word) := (nextOf (exec i s)).map fun t => (t.g, t.res0)

/-- The two composite state words and `RES0` after a command. -/
def compAfter (i : Instr) (s : State) : Option (Word × Word × Word) :=
  (nextOf (exec i s)).map fun t => (t.c.hi.state, t.c.lo.state, t.res0)

/-! ### Decoding (30_encoding.md rules R54, R56, R58; V16) -/

theorem test_decode_g32Seed : decode 0x0000000000000001 = .command .g32Seed := by decide
theorem test_decode_g32Next : decode 0x0000000000000002 = .command .g32Next := by decide
theorem test_decode_g32Bounded : decode 0x0000000000000003 = .command .g32Bounded := by decide
theorem test_decode_g32Jump : decode 0x0000000000000004 = .command .g32Jump := by decide
theorem test_decode_g32JumpBack : decode 0x0000000000000005 = .command .g32JumpBack := by decide
theorem test_decode_g32Load : decode 0x0000000000000006 = .command .g32Load := by decide
theorem test_decode_c64Seed : decode 0x0000000000000011 = .command .c64Seed := by decide
theorem test_decode_c64Next : decode 0x0000000000000012 = .command .c64Next := by decide
theorem test_decode_c64Bounded : decode 0x0000000000000013 = .command .c64Bounded := by decide
theorem test_decode_c64Jump : decode 0x0000000000000014 = .command .c64Jump := by decide
theorem test_decode_c64JumpBack : decode 0x0000000000000015 = .command .c64JumpBack := by decide
theorem test_decode_c64Load : decode 0x0000000000000016 = .command .c64Load := by decide
theorem test_decode_c64Step128 : decode 0x0000000000000017 = .command .c64Step128 := by decide
theorem test_decode_c64Hq64 : decode 0x0000000000000018 = .command .c64Hq64 := by decide

/-- V16: the reset value of `CMD`, the ends of the unassigned ranges, and set reserved bits. -/
theorem test_decode_rejects :
    decode 0x0 = .illegal .unassignedOpcode ∧ decode 0x7 = .illegal .unassignedOpcode ∧
      decode 0x10 = .illegal .unassignedOpcode ∧ decode 0x19 = .illegal .unassignedOpcode ∧
      decode 0xff = .illegal .unassignedOpcode ∧
      decode 0x102 = .illegal .reservedBits ∧ decode 0x8000000000000011 = .illegal .reservedBits := by decide

theorem test_encode_c64Hq64 : encode .c64Hq64 = 0x0000000000000018 := by decide

/-- The host's view of a table row: the row's word decodes, a shorter row counts its missing bits as 0. -/
theorem test_decodeTableWord :
    decodeTableWord 64 0x13 = some .c64Bounded ∧ decodeTableWord 8 0x13 = some .c64Bounded ∧
      decodeTableWord 64 0x113 = none ∧ decodeTableWord 72 0x13 = none := by decide

/-! ### Well-formedness (20_memory.md rule R34): one ill-formed term for each check -/

theorem test_wf_accepts : (HostOp.read 64 0x68).wf = true ∧ (HostOp.write 64 0x00 1).wf = true := by decide
theorem test_wf_refuses_width : (HostOp.read 32 0x30).wf = false := by decide
theorem test_wf_refuses_misaligned : (HostOp.write 64 0x14 1).wf = false := by decide
theorem test_wf_refuses_outside : (HostOp.read 64 0x70).wf = false := by decide
theorem test_wf_refuses_transaction : (Transaction.w 0x78 0).wf = false := by decide

/-! ### Group 0 -/

/-- V1, rows 1 and 4. -/
theorem test_g32Seed :
    baseAfter .g32Seed (at_ ⟨0, 1⟩ seededC 42 54) = some (⟨0x185706b82c2e03f8, 0x6d⟩, 0) ∧
      baseAfter .g32Seed (at_ ⟨0, 1⟩ seededC 0xffffffffffffffff 0xffffffffffffffff)
        = some (⟨0x4f5c17a566d501a5, 0xffffffffffffffff⟩, 0) := by decide

/-- V2, draws 1 and 2. -/
theorem test_g32Next_stream :
    baseAfter .g32Next (baseAt 0) = some (⟨0x2b47fed88766bb05, 0x6d⟩, 0xa15c02b7) ∧
      baseAfter .g32Next (at_ ⟨0x2b47fed88766bb05, 0x6d⟩ seededC 0 0)
        = some (⟨0x8b33296d19bf5b4e, 0x6d⟩, 0x7b47f409) := by decide

/-- V8: rotation by 31, by 16 and by 0. -/
theorem test_g32Next_corners :
    baseAfter .g32Next (at_ ⟨0xffffffffffffffff, 1⟩ seededC 0 0) = some (⟨0xa7ae0bd2b36a80d4, 1⟩, 0xfff00001) ∧
      baseAfter .g32Next (at_ ⟨0x8000000000000000, 1⟩ seededC 0 0) = some (⟨0x8000000000000001, 1⟩, 0x4) ∧
      baseAfter .g32Next (at_ ⟨0x0000000008000000, 1⟩ seededC 0 0) = some (⟨0x6a64abf968000001, 1⟩, 0x1) := by
  decide

/-- V4: bound 0 draws nothing; `ARG0[63:32]` is ignored. -/
theorem test_g32Bounded :
    baseAfter .g32Bounded (baseAt 0) = some (⟨0x185706b82c2e03f8, 0x6d⟩, 0) ∧
      baseAfter .g32Bounded (baseAt 0x100000000000000a) = some (⟨0x2b47fed88766bb05, 0x6d⟩, 3) := by decide

/-- V5: the first draw is rejected. -/
theorem test_g32Bounded_rejects :
    baseAfter .g32Bounded (at_ ⟨0x2b47fed88766bb05, 0x6d⟩ seededC 0x80000001 0)
      = some (⟨0xf7079824c154bf23, 0x6d⟩, 0x3a1d332f) := by decide

/-- V6: 10000 steps, and 2^63. -/
theorem test_g32Jump :
    baseAfter .g32Jump (baseAt 10000) = some (⟨0x799e3361c95bd1e8, 0x6d⟩, 0) ∧
      baseAfter .g32Jump (baseAt 0x8000000000000000) = some (⟨0x985706b82c2e03f8, 0x6d⟩, 0) := by decide +kernel

/-- V7: 10 steps back, and none. -/
theorem test_g32JumpBack :
    baseAfter .g32JumpBack (baseAt 10) = some (⟨0x485ce9e57d65bdda, 0x6d⟩, 0) ∧
      baseAfter .g32JumpBack (baseAt 0) = some (⟨0x185706b82c2e03f8, 0x6d⟩, 0) := by decide +kernel

/-- V17. -/
theorem test_g32Load :
    baseAfter .g32Load (at_ ⟨0x2b47fed88766bb05, 0x6d⟩ seededC 0x185706b82c2e03f8 0)
      = some (⟨0x185706b82c2e03f8, 0x6d⟩, 0) := by decide

/-- V18. -/
theorem test_threshold :
    threshold 10#32 = 6 ∧ threshold 0x80000001#32 = 0x7fffffff ∧ threshold 0x80000000#32 = 0 ∧
      threshold 0x8000000000000001#64 = 0x7fffffffffffffff ∧ threshold 3#64 = 1 := by decide

/-! ### Group 1 -/

/-- V9, row 1, and row 3 (equal below bit 63: the second sequence is complemented). -/
theorem test_c64Seed :
    (nextOf (exec .c64Seed { at_ seededG seededC 1 2 with arg2 := 3, arg3 := 4 })).map State.c = some seededC ∧
      (nextOf (exec .c64Seed { at_ seededG seededC 1 2 with arg2 := 5, arg3 := 0x8000000000000005 })).map State.c
        = some ⟨⟨0xe51e6a684ebe8760, 0xfffffffffffffff5⟩, ⟨0x23d7721f9701f627, 0xb⟩⟩ := by decide

/-- V10. -/
theorem test_c64Next :
    compAfter .c64Next (at_ seededG seededC 0 0)
      = some (0x96fd248dc26df1a1, 0xad3a724d2493e98a, 0x54f13138f2393151) := by decide

/-- V14: bound 0, bound 10. -/
theorem test_c64Bounded :
    compAfter .c64Bounded (at_ seededG seededC 0 0) = some (0xcb857df24a6c76f8, 0xc28fa16a64abf96f, 0) ∧
      compAfter .c64Bounded (at_ seededG seededC 10 0) = some (0x96fd248dc26df1a1, 0xad3a724d2493e98a, 9) := by
  decide

/-- V14: three draws rejected. -/
theorem test_c64Bounded_rejects :
    compAfter .c64Bounded (at_ seededG seededC 0x8000000000000001 0)
      = some (0x86cd86da1e8cfce4, 0xbc7fa6f776024cb3, 0x5b86a92210b46387) := by decide

/-- V15. -/
theorem test_c64Jump :
    compAfter .c64Jump (at_ seededG seededC 5 0) = some (0x0a0250b630f1901d, 0xd77a929daaa3487e, 0) := by decide

/-- V15, back again. -/
theorem test_c64JumpBack :
    compAfter .c64JumpBack (at_ seededG ⟨⟨0x0a0250b630f1901d, 9⟩, ⟨0xd77a929daaa3487e, 7⟩⟩ 5 0)
      = some (0xcb857df24a6c76f8, 0xc28fa16a64abf96f, 0) := by decide +kernel

/-- V17. -/
theorem test_c64Load :
    compAfter .c64Load (at_ seededG ⟨⟨1, 9⟩, ⟨2, 7⟩⟩ 0xcb857df24a6c76f8 0xc28fa16a64abf96f)
      = some (0xcb857df24a6c76f8, 0xc28fa16a64abf96f, 0) := by decide

/-- The candidate constants of 93_implementation_defined.md I1: not the block's, only the vectors' own. -/
def candidateMul : Word128 := 0x2360ED051FC65DA44385DF649FCCF645

/-- The candidate increment of 93_implementation_defined.md I1. -/
def candidateInc : Word128 := 0x5851F42D4C957F2D14057B7EF767814F

/-- V11, rows 3 and 5, by the 128-bit definition and by both word-level computations. -/
theorem test_step128 :
    step128With candidateMul candidateInc 0xffffffffffffffff 0xffffffffffffffff
        = (0x34f107282ccf2188, 0xd07f9c1a579a8b0a) ∧
      step128Words mul64x128 candidateMul candidateInc 0xcb857df24a6c76f8 0xc28fa16a64abf96f
        = (0x3bd39df50c3003e3, 0x0447633c10e6663a) ∧
      step128Words mul64x128Halves candidateMul candidateInc 0xffffffffffffffff 0xffffffffffffffff
        = (0x34f107282ccf2188, 0xd07f9c1a579a8b0a) := by decide

/-- V13 and V12's first row: the permutation on the post-step words. -/
theorem test_perm64 :
    perm64 1 0 = 0xda942042e4dd8221 ∧ perm64 0xffffffffffffffff 0xffffffffffffffff = 0x7562d3ffffff7563 ∧
      perm64 0x0123456789abcdef 0xfedcba9876543210 = 0x0b1325857ae7a920 ∧
      perm64 0x5851f42d4c957f2d 0x14057b7ef767814f = 0xf15e32cf54560407 := by decide

/-- R94: the results are the post-step state words, the increments stay (V11's rows say the same of the candidates). -/
theorem test_c64Step128 :
    (nextOf (exec .c64Step128 (baseAt 0))).map (fun t => (t.res0, t.res1)) = some (step128 seededC.hi.state seededC.lo.state) ∧
      (nextOf (exec .c64Step128 (baseAt 0))).map (fun t => (t.c.hi.inc, t.c.lo.inc)) = some (9, 7) := ⟨rfl, rfl⟩

/-- R95: `RES0` permutes the post-step words, `RES1` stays. -/
theorem test_c64Hq64 (t : State) (h : nextOf (exec .c64Hq64 (baseAt 0)) = some t) :
    t.res0 = perm64 t.c.hi.state t.c.lo.state ∧ t.res1 = 0 := by
  cases h
  exact ⟨rfl, rfl⟩

/-! ### The window (V16), the turns and the text of programs -/

/-- V16, rows 1 and 7: an illegal word is recorded and starts nothing; a legal one is pending and shows in `BUSY`. -/
theorem test_write_cmd :
    (hostWrite .cmd 0 (baseAt 0)).statusWord = 0x102 ∧ (hostWrite .cmd 0 (baseAt 0)).pending = none ∧
      (hostWrite .cmd 0x18 (baseAt 0)).statusWord = 1 ∧ (hostWrite .cmd 0x18 (baseAt 0)).pending = some 0x18 := by
  decide

/-- V16, rows 9, 10 and 11: busy is checked before legality, an operand write is dropped, `STATUS` clears. -/
theorem test_write_busy :
    (hostWrite .cmd 0xff ((baseAt 0).accept 2)).statusWord = 0x203 ∧
      (hostWrite .arg2 5 ((baseAt 0).accept 2)).arg2 = 0 ∧
      (hostWrite .status 2 (hostWrite .arg2 5 ((baseAt 0).accept 2))).statusWord = 1 := by decide

/-- V16, last row: the first code is kept. -/
theorem test_first_error_kept :
    (hostWrite .cmd 2 ((hostWrite .cmd 7 (baseAt 0)).accept 2)).statusWord = 0x103 := by decide

/-- The state views hold the generator registers (10_state.md rule R22; V1, V9). -/
theorem test_read_back :
    hostRead .lInc (baseAt 0) = (7, baseAt 0) ∧ hostRead .gState (baseAt 0) = (0x185706b82c2e03f8, baseAt 0) := by
  decide

/-- A pending command runs at the block's turn, and the turn is used up (rule R45). -/
theorem test_step_block :
    (nextOf (step { (baseAt 0).accept 2 with turns := [.block, .host] })).map
        (fun t => (t.pending, t.turns, t.res0, t.cmd)) = some (none, [.host], 0xa15c02b7, 2) := by decide

/-- An access outside the window is refused by name (rule R34). -/
theorem test_step_undefined_access :
    step { baseAt 0 with program := [.read 64 0x70] } = .refused .undefinedAccess := by rfl

/-- R65's example: the transactions of `g32.seed 42, 54`. -/
theorem test_transaction_text :
    renderTransaction (.w 0x10 42) = "W 0x10 0x000000000000002a".toList ∧
      renderTransaction (.r 0x30) = "R 0x30".toList ∧
      readTransaction "W 0x18 0x0000000000000036".toList = some (.w 0x18 54) ∧
      readTransaction "R 0x08 (poll)".toList = some .rPoll := by decide

/-- Lines of P1, P2 and P4. -/
theorem test_readLine :
    readLine "g32.seed 42, 54        ; G".toList = some [.g32Seed 42 54] ∧
      readLine "wr CMD, C64_BOUNDED    ; no poll".toList = some [.wr .cmd 0x13] ∧
      readLine "rd STATUS".toList = some [.rd .status] ∧ readLine "  ; nothing".toList = some [] ∧
      readLine "c64.load 0xcb857df24a6c76f8, 0xc28fa16a64abf96f".toList
        = some [.c64Load 0xcb857df24a6c76f8 0xc28fa16a64abf96f] := by decide

/-- What is no assembly: a missing comma, a missing operand, a literal of 2^64. -/
theorem test_readLine_refuses :
    readLine "g32.seed 42 54".toList = none ∧ readLine "wr ARG0,".toList = none ∧
      readLine "g32.jump 18446744073709551616".toList = none := by decide

/-! ### Witnesses: for each statement with hypotheses, concrete values that meet them, clause by clause -/

/-- `G` seeded, an operand, and the given command word pending. -/
def pendingAt (a0 w : Word) : State := (baseAt a0).accept w

/-- The composite seeded with the operands 1, 2, and the given sequences. -/
def seedAt (q0 q1 : Word) : State := { at_ seededG seededC 1 2 with arg2 := q0, arg3 := q1 }

/-- A command answers a next state. -/
def runs (i : Instr) (s : State) : Bool := (nextOf (exec i s)).isSome

theorem witness_CommandWordsDecodeAsTabled : ∀ op ∈ ([0x00, 0x07, 0x10, 0x19, 0xff] : List (BitVec 8)),
    op ∉ ([0x01, 0x02, 0x03, 0x04, 0x05, 0x06, 0x11, 0x12, 0x13, 0x14, 0x15, 0x16, 0x17, 0x18] : List (BitVec 8)) := by
  decide

theorem witness_LegalWordsAreTheFourteenOpcodes : (baseAt 0).pending = none ∧ legal 0x07 = false ∧ legal 0x102 = false := by
  decide

theorem witness_EncodeGivesTheOnlyWordOfACommand :
    decode 0x12 = .command .c64Next ∧ (0x102 : Word).getLsbD 8 = true ∧ (0x8000000000000011 : Word).getLsbD 63 = true := by
  decide

theorem witness_TransactionTextReadsBack :
    (Transaction.w 0x00 0xffffffffffffffff).wf = true ∧ (Transaction.r 0x68).wf = true ∧ Transaction.rPoll.wf = true := by
  decide

theorem witness_UndefinedAccessesAreRefused :
    ({ baseAt 0 with turns := [.host], program := [.read 64 0x68] } : State).turns = .host :: [] ∧
      ({ baseAt 0 with program := [.write 64 0x70 1] } : State).turns = [] ∧
      ({ baseAt 0 with program := [.write 64 0x70 1] } : State).pending = none ∧
      (¬ ((32 : Nat) = 64 ∧ 0x68 % 8 = 0 ∧ 0x68 ≤ 0x68)) ∧ (¬ ((64 : Nat) = 64 ∧ 0x64 % 8 = 0 ∧ 0x64 ≤ 0x68)) ∧
      (¬ ((64 : Nat) = 64 ∧ 0x70 % 8 = 0 ∧ 0x70 ≤ 0x68)) ∧ ((64 : Nat) = 64 ∧ 0x68 % 8 = 0 ∧ 0x68 ≤ 0x68) := by
  decide

theorem witness_XshrrRotatesBits58To27 : (0x07ffffffffffffff : Word).extractLsb' 59 5 = 0 := by decide

theorem witness_LcgHasFullPeriod : (1 : Word).getLsbD 0 = true ∧ (baseAt 0).OddIncs := ⟨rfl, rfl, rfl, rfl⟩

theorem witness_JumpIsDeltaSteps : 64 ≤ 64 ∧ 64 ≤ 65 := by decide

theorem witness_JumpLaws : (0x6d : Word).getLsbD 0 = true := by decide

theorem witness_ThresholdIsTwoToTheNMinusBoundModBound :
    (0x80000000 : BitVec 32) ≠ 0 ∧ (0x80000000 : BitVec 32).toNat = 2 ^ 31 ∧ (1 : BitVec 64).toNat = 2 ^ 0 := by decide

theorem witness_SamplerTakesTheFirstAcceptedDraw :
    (0x80000001 : Word32) ≠ 0 ∧ (bounded32 0x2b47fed88766bb05 0x6d 0x80000001).isSome = true := by decide

theorem witness_XshrrIsEquidistributedAndSamplingEnds :
    (0x80000001 : Word32) ≠ 0 ∧ (0xffffffff : Word32) ≠ 0 ∧ (1 : Word).getLsbD 0 = true := by decide

theorem witness_G32BoundedInRangeWithoutBias :
    runs .g32Bounded (baseAt 10) = true ∧ (baseAt 10).arg0.extractLsb' 0 32 ≠ 0 ∧
      runs .g32Bounded (baseAt 0x100000000) = true ∧ (baseAt 0x100000000).arg0.extractLsb' 0 32 = 0 := by decide

theorem witness_C64BoundedInRangeAndFastHalvesIndependent :
    runs .c64Bounded (baseAt 10) = true ∧ (baseAt 10).arg0 ≠ 0 ∧ 0 < 1 ∧ 1 < 2 ^ 64 := by decide

theorem witness_G32SeedSetsStateAndIncrement :
    (at_ ⟨0, 1⟩ seededC 0 0).arg0 = 0 ∧ (at_ ⟨0, 1⟩ seededC 0 0).arg1 = 0 ∧
      (at_ ⟨0, 1⟩ seededC 42 54).arg0 = 42 ∧ (at_ ⟨0, 1⟩ seededC 42 54).arg1 = 54 := by decide

theorem witness_G32NextOutputsAndSteps :
    (at_ ⟨0, 1⟩ seededC 0 0).g.state = 0 ∧ (baseAt 0).g = ⟨0x185706b82c2e03f8, 0x6d⟩ := by decide

theorem witness_G32BoundedReturnsTheFirstAcceptedDraw :
    (baseAt 0x500000000).arg0.extractLsb' 0 32 = 0 ∧ (baseAt 10).g.odd ∧ ((baseAt 10).arg0.extractLsb' 0 32).toNat ≠ 0 ∧
      thresholdNat 32 1 = 0 ∧ (baseAt 10).g = ⟨0x185706b82c2e03f8, 0x6d⟩ ∧ (baseAt 10).arg0 = 10 := by
  refine ⟨by decide, rfl, by decide, by decide, rfl, rfl⟩

theorem witness_G32JumpAdvancesByDelta :
    (baseAt 0).arg0 = 0 ∧ (baseAt 0xffffffffffffffff).g.odd ∧ (baseAt 0xffffffffffffffff).arg0 = 0xffffffffffffffff ∧
      (baseAt 0x8000000000000000).g.odd ∧ (baseAt 0x8000000000000000).arg0 = 0x8000000000000000 ∧
      (baseAt 10).g = ⟨0x185706b82c2e03f8, 0x6d⟩ ∧ (baseAt 10).arg0 = 10 := ⟨rfl, rfl, rfl, rfl, rfl, rfl, rfl⟩

theorem witness_G32JumpBackRetreatsByDelta :
    (baseAt 0).arg0 = 0 ∧ (baseAt 0x8000000000000000).arg0 = 0x8000000000000000 ∧ (baseAt 1).g.odd ∧
      (baseAt 1).arg0 = 1 ∧ (baseAt 1).g = ⟨0x185706b82c2e03f8, 0x6d⟩ := ⟨rfl, rfl, rfl, rfl, rfl⟩

theorem witness_G32LoadOverwritesTheStateWord :
    (baseAt 0).pending = none ∧ (baseAt 0x185706b82c2e03f8).g.inc = (baseAt 0).g.inc ∧
      (baseAt 0x185706b82c2e03f8).arg0 = (hostRead .gState (baseAt 0)).1 := by decide

theorem witness_C64SeedCrossesAndSeparatesTheStreams :
    (seedAt 3 3).arg3 = (seedAt 3 3).arg2 ∧ (seedAt 5 0x8000000000000005).arg3 = 5 ^^^ 0x8000000000000000 ∧
      (seedAt 3 4).arg0 = 1 ∧ (seedAt 3 4).arg1 = 2 ∧ (seedAt 3 4).arg2 = 3 ∧ (seedAt 3 4).arg3 = 4 := by decide

theorem witness_C64NextConcatenatesTwoDraws :
    (baseAt 0).c = ⟨⟨0xcb857df24a6c76f8, 0x9⟩, ⟨0xc28fa16a64abf96f, 0x7⟩⟩ := by decide

theorem witness_C64Step128StepsTheWideState :
    (at_ seededG ⟨⟨0, 9⟩, ⟨0, 7⟩⟩ 0 0).c.hi.state = 0 ∧ (at_ seededG ⟨⟨0, 9⟩, ⟨0, 7⟩⟩ 0 0).c.lo.state = 0 ∧
      ∃ nh nl, (nh, nl) = step128 0 0 := ⟨rfl, rfl, _, _, rfl⟩

theorem witness_C64Hq64PermutesThePostStepWords : ∃ nh nl, (nh, nl) = step128 seededC.hi.state seededC.lo.state :=
  ⟨_, _, rfl⟩

theorem witness_C64BoundedReturnsTheFirstAcceptedDraw :
    (baseAt 0).arg0 = 0 ∧ (baseAt 0x8000000000000001).c.hi.odd ∧ (baseAt 0x8000000000000001).arg0.toNat ≠ 0 ∧
      thresholdNat 64 1 = 0 ∧ (baseAt 10).c = ⟨⟨0xcb857df24a6c76f8, 0x9⟩, ⟨0xc28fa16a64abf96f, 0x7⟩⟩ ∧
      (baseAt 10).arg0 = 10 := by
  refine ⟨rfl, rfl, by decide, by decide, rfl, rfl⟩

theorem witness_C64JumpAdvancesBothHalves :
    (baseAt 0).arg0 = 0 ∧ (baseAt 5).arg0 = 5 ∧
      (baseAt 5).c = ⟨⟨0xcb857df24a6c76f8, 0x9⟩, ⟨0xc28fa16a64abf96f, 0x7⟩⟩ := by decide

theorem witness_C64JumpBackRetreatsBothHalves : (baseAt 5).c.hi.odd ∧ (baseAt 5).c.lo.odd := ⟨rfl, rfl⟩

theorem witness_C64LoadOverwritesBothStateWords :
    (at_ seededG seededC 0xcb857df24a6c76f8 0xc28fa16a64abf96f).arg0 = 0xcb857df24a6c76f8 ∧
      (at_ seededG seededC 0xcb857df24a6c76f8 0xc28fa16a64abf96f).arg1 = 0xc28fa16a64abf96f ∧
      (baseAt 0).c.hi.inc = 9 ∧ (baseAt 0).c.lo.inc = 7 := by decide

theorem witness_GroupsActOnTheirOwnGenerator :
    Instr.g32Bounded.groupFunc.1 = 0 ∧ runs .g32Bounded (baseAt 10) = true ∧
      Instr.c64Bounded.groupFunc.1 = 1 ∧ runs .c64Bounded (baseAt 10) = true := by decide

theorem witness_CommandsWriteOnlyTheirRegisters :
    runs .g32Seed (baseAt 1) = true ∧ runs .g32Next (baseAt 1) = true ∧ runs .c64Seed (baseAt 1) = true ∧
      runs .c64Step128 (baseAt 1) = true := ⟨rfl, rfl, rfl, rfl⟩

/-- For each command, operand registers that differ from the state's wherever the command reads none of them. -/
theorem witness_CommandsReadOnlyTheirOperands :
    operandsAgree .g32Seed (baseAt 1) 1 0 7 7 ∧ operandsAgree .g32Next (baseAt 1) 7 7 7 7 ∧
      operandsAgree .g32Bounded (baseAt 1) 0xffffffff00000001 7 7 7 ∧ operandsAgree .g32Jump (baseAt 1) 1 7 7 7 ∧
      operandsAgree .g32JumpBack (baseAt 1) 1 7 7 7 ∧ operandsAgree .g32Load (baseAt 1) 1 7 7 7 ∧
      operandsAgree .c64Seed (baseAt 1) 1 0 0 0 ∧ operandsAgree .c64Next (baseAt 1) 7 7 7 7 ∧
      operandsAgree .c64Bounded (baseAt 1) 1 7 7 7 ∧ operandsAgree .c64Jump (baseAt 1) 1 7 7 7 ∧
      operandsAgree .c64JumpBack (baseAt 1) 1 7 7 7 ∧ operandsAgree .c64Load (baseAt 1) 1 0 7 7 ∧
      operandsAgree .c64Step128 (baseAt 1) 7 7 7 7 ∧ operandsAgree .c64Hq64 (baseAt 1) 7 7 7 7 := by
  simp only [operandsAgree]; decide

theorem witness_HostReadReturnsTheRegister :
    (baseAt 0).pending = none ∧ (pendingAt 0 0x02).pending = some 0x02 := by decide

theorem witness_HostWriteHasItsEffect :
    (baseAt 0).pending = none ∧ legal 0x18 = true ∧ legal 0x19 = false ∧ (pendingAt 0 0x02).pending = some 0x02 ∧
      (2 : Word).getLsbD 1 = true ∧ (0xfffffffffffffffd : Word).getLsbD 1 = false := by decide

theorem witness_StatusWordHasItsFields :
    (2 : Word).getLsbD 1 = true ∧ (1 : Word).getLsbD 1 = false ∧ (baseAt 0).StatusOk := ⟨rfl, rfl, .inl ⟨rfl, rfl⟩⟩

theorem witness_IllegalCommandOnlyRecordsTheError :
    (baseAt 0).pending = none ∧ legal 0x07 = false ∧ (baseAt 0).status.err = false ∧
      ((baseAt 0).recordError .illegalCmd).status.err = true ∧ ((baseAt 0).recordError .illegalCmd).pending = none := by
  decide

theorem witness_BusyWriteIsDropped :
    (pendingAt 0 0x02).pending = some 0x02 ∧ (pendingAt 0 0x02).status.err = false ∧
      ((pendingAt 0 0x02).recordError .busyWrite).status.err = true := by decide

theorem witness_FirstErrorIsKeptUntilCleared :
    (baseAt 0).status.err = false ∧ ((baseAt 0).recordError .illegalCmd).status.err = true ∧
      (nextOf (step ((baseAt 0).recordError .illegalCmd))).isSome = true ∧
      (nextOf (step { (baseAt 0).recordError .illegalCmd with program := [.write 64 0x08 2] })).map State.status
        = some ⟨false, 0⟩ := by decide

theorem witness_StepRunsThePendingCommand :
    (pendingAt 0 0x02).pending = some 0x02 ∧ decode 0x02 = .command .g32Next ∧
      ({ pendingAt 0 0x02 with turns := [.block] } : State).turns = .block :: [] ∧ (pendingAt 0 0x02).turns = [] ∧
      runs .g32Next (pendingAt 0 0x02) = true := by decide

theorem witness_StepPerformsTheHostsAccess :
    (baseAt 0).turns = [] ∧ (baseAt 0).pending = none ∧
      ({ pendingAt 0 0x02 with turns := [.host], program := [.poll] } : State).turns = .host :: [] ∧
      ({ baseAt 0 with program := [.write 64 0x68 5] } : State).program = .write 64 (Reg.offset .lInc) 5 :: [] ∧
      ({ baseAt 0 with turns := [.block, .host] } : State).turns = .block :: [.host] := by
  decide

theorem witness_OperandsAreFixedAtAcceptance :
    ({ pendingAt 0 0x02 with turns := [.host] } : State).turnNow = .host ∧
      (nextOf (step { pendingAt 0 0x02 with turns := [.host], program := [.write 64 0x10 3] })).isSome = true ∧
      (baseAt 0).pending = none ∧ legal 0x02 = true := by decide

/-- 95_test_vectors.md P4: `C64_BOUNDED` pending with bound 10, and the host about to write `ARG0`. -/
theorem witness_HostAccessCommutesWithBlockStep :
    (pendingAt 10 0x13).pending = some 0x13 ∧ (HostOp.write 64 0x10 3).wf = true ∧
      (nextOf (blockStep { pendingAt 10 0x13 with program := [.write 64 0x10 3] })).map State.res0 = some 9 := by decide

theorem witness_PollEndsOnlyAfterCompletion :
    ({ pendingAt 0 0x02 with turns := [.host], program := [.poll] } : State).turnNow = .host ∧
      (nextOf (step { pendingAt 0 0x02 with turns := [.host], program := [.poll] })).isSome = true ∧
      (nextOf (step { baseAt 0 with program := [.write 64 0x00 0x02] })).map State.pending = some (some 0x02) := by decide

/-- A legal state with a command pending, and the host's contract kept. -/
theorem inv_pendingAt : (pendingAt 10 0x13).Inv := by
  refine ⟨⟨rfl, rfl, rfl⟩, ⟨.inr (by decide), ?_⟩, .inl ⟨rfl, rfl⟩⟩
  intro w h
  cases h
  exact ⟨rfl, by decide⟩

theorem hostOk_pendingAt : (pendingAt 10 0x13).HostOk := ⟨by decide, by decide⟩

theorem witness_EveryPendingCommandCompletes :
    (pendingAt 10 0x13).Inv ∧ (pendingAt 10 0x13).HostOk ∧ Turn.reset ∉ (pendingAt 10 0x13).turns ∧
      (pendingAt 10 0x13).pending = some 0x13 := ⟨inv_pendingAt, hostOk_pendingAt, by decide, rfl⟩

theorem witness_LegalRunsNeverStop : (pendingAt 10 0x13).Inv ∧ (pendingAt 10 0x13).HostOk :=
  ⟨inv_pendingAt, hostOk_pendingAt⟩

theorem witness_IssueAndPollRunTheCommand :
    (baseAt 10).turns = [] ∧ (baseAt 10).pending = none ∧
      runs .g32Bounded { baseAt 10 with cmd := encode .g32Bounded, pending := some (encode .g32Bounded), program := [.poll] }
        = true := by decide

theorem witness_ResetSetsEveryRegister :
    ({ baseAt 0 with turns := [.reset] } : State).turns = .reset :: [] ∧
      ({ baseAt 0 with turns := [.hostInReset] } : State).turns = .hostInReset :: [] := by decide

theorem witness_StepKeepsIncrementsOdd :
    (pendingAt 42 0x01).OddIncs ∧ (nextOf (step (pendingAt 42 0x01))).isSome = true := ⟨⟨rfl, rfl, rfl⟩, by decide⟩

theorem witness_StepKeepsTheInvariant :
    (pendingAt 10 0x13).Inv ∧ (nextOf (step (pendingAt 10 0x13))).isSome = true := ⟨inv_pendingAt, by decide⟩

/-- The bounded commands do stop in some state: with increment 0 and state 0 every draw is 0. -/
theorem witness_BoundedCommandsStopOnlyWhenNoDrawIsEverAccepted :
    xshrr 0 = 0 ∧ lcg64 0 0 = 0 ∧ thresholdNat 32 10 = 6 := by decide

end Sys2Proof.Tests
end

section
/-! PROOFS. The statements of 10_state.md: the frame of the commands, the fields of `STATUS`, reset, and the invariants every
step keeps. -/

namespace Sys2Proof.Machine

/-! ### The frame of the commands -/

/-- The updates a command can answer, by the registers it writes. The words written are arbitrary, but for the increments:
only a seeding command writes them, and it writes those of sequence selectors (10_state.md rules R18, R20, R26). -/
inductive Writes (s : State) : Instr → State → Prop
  | baseSeed (w q : Word) : Writes s .g32Seed (s.writeG w (seedInc q))
  | baseDraw {i : Instr} (hi : i ∈ [Instr.g32Next, .g32Bounded]) (w : Word) (v : Word32) :
      Writes s i ((s.writeGState w).writeRes32 v)
  | baseState {i : Instr} (hi : i ∈ [Instr.g32Jump, .g32JumpBack, .g32Load]) (w : Word) : Writes s i (s.writeGState w)
  | compSeed (h l qHi qLo : Word) : Writes s .c64Seed (s.writeC ⟨h, seedInc qHi⟩ ⟨l, seedInc qLo⟩)
  | compDraw {i : Instr} (hi : i ∈ [Instr.c64Next, .c64Bounded, .c64Hq64]) (h l v : Word) :
      Writes s i ((s.writeHL h l).writeRes0 v)
  | compState {i : Instr} (hi : i ∈ [Instr.c64Jump, .c64JumpBack, .c64Load]) (h l : Word) : Writes s i (s.writeHL h l)
  | compStep (h l : Word) : Writes s .c64Step128 (((s.writeHL h l).writeRes0 h).writeRes1 l)

/-- Every command's answer is one of these updates. -/
theorem exec_writes (i : Instr) (s t : State) (h : exec i s = .next t) : Writes s i t := by
  cases i
  case g32Bounded =>
    obtain ⟨d, -, rfl⟩ := (finishSample_next _ _ _).1 h
    exact .baseDraw (by decide) d.2 d.1
  case c64Bounded =>
    obtain ⟨d, -, rfl⟩ := (finishSample_next _ _ _).1 h
    exact .compDraw (by decide) d.2.1 d.2.2 d.1
  all_goals cases h
  case g32Seed => exact .baseSeed _ _
  case g32Next => exact .baseDraw (by decide) _ _
  case g32Jump | g32JumpBack | g32Load => exact .baseState (by decide) _
  case c64Seed => exact .compSeed _ _ _ _
  case c64Next | c64Hq64 => exact .compDraw (by decide) _ _ _
  case c64Jump | c64JumpBack | c64Load => exact .compState (by decide) _ _
  case c64Step128 => exact .compStep _ _

section writes

variable {s t : State} {i : Instr}

/-- A command answers with the interface registers and the host's data as they were: no operand, no flag, not `CMD`. -/
theorem exec_frame (h : exec i s = .next t) :
    t.cmd = s.cmd ∧ t.status = s.status ∧ t.pending = s.pending ∧
      t.arg0 = s.arg0 ∧ t.arg1 = s.arg1 ∧ t.arg2 = s.arg2 ∧ t.arg3 = s.arg3 ∧
      t.program = s.program ∧ t.turns = s.turns ∧ t.reads = s.reads ∧ t.fresh = s.fresh := by
  rw [exec_next_form i s t h]
  exact ⟨rfl, rfl, rfl, rfl, rfl, rfl, rfl, rfl, rfl, rfl, rfl⟩

/-- Six commands alone write `RES0` (10_state.md rule R26). -/
theorem Writes.res0 (h : Writes s i t)
    (hi : i ∉ [Instr.g32Next, .g32Bounded, .c64Next, .c64Step128, .c64Hq64, .c64Bounded]) : t.res0 = s.res0 := by
  cases h
  case baseDraw hd | compDraw hd => fin_cases hd <;> simp at hi
  case compStep => simp at hi
  all_goals simp

/-- `C64_STEP128` alone writes `RES1` (10_state.md rule R26). -/
theorem Writes.res1 (h : Writes s i t) (hi : i ≠ .c64Step128) : t.res1 = s.res1 := by
  cases h
  case compStep => exact absurd rfl hi
  all_goals simp

/-- `G32_SEED` alone writes `G.inc` (10_state.md rule R20). -/
theorem Writes.gInc (h : Writes s i t) (hi : i ≠ .g32Seed) : t.g.inc = s.g.inc := by
  cases h
  case baseSeed => exact absurd rfl hi
  all_goals simp

/-- `C64_SEED` alone writes the increments of `C` (10_state.md rule R20). -/
theorem Writes.cIncs (h : Writes s i t) (hi : i ≠ .c64Seed) :
    t.c.hi.inc = s.c.hi.inc ∧ t.c.lo.inc = s.c.lo.inc := by
  cases h
  case compSeed => exact absurd rfl hi
  all_goals simp

/-- A command of group 0 leaves the composite generator as it was (30_encoding.md rule R55). -/
theorem Writes.c_of_group0 (h : Writes s i t) (hi : i.groupFunc.1 = 0) : t.c = s.c := by
  cases h
  case compSeed | compStep => cases hi
  case compDraw hd | compState hd => fin_cases hd <;> cases hi
  all_goals simp

/-- A command of group 1 leaves the base generator as it was (30_encoding.md rule R55). -/
theorem Writes.g_of_group1 (h : Writes s i t) (hi : i.groupFunc.1 = 1) : t.g = s.g := by
  cases h
  case baseSeed => cases hi
  case baseDraw hd | baseState hd => fin_cases hd <;> cases hi
  all_goals simp

end writes

/-- Settles O40: the interface registers and the host's data by the common form of all answers, the rest by the registers
each command writes. -/
theorem commandsWriteOnlyTheirRegisters : Obligations.CommandsWriteOnlyTheirRegisters := by
  intro i s t h
  have hw : Writes s i t := exec_writes i s t h
  obtain ⟨hcmd, hstatus, hpending, h0, h1, h2, h3, hprogram, hturns, hreads, hfresh⟩ := exec_frame h
  exact ⟨hcmd, hstatus, hpending, h0, h1, h2, h3, hprogram, hturns, hreads, hfresh,
    hw.res0, hw.res1, hw.gInc, hw.cIncs, hw.c_of_group0, hw.g_of_group1⟩

/-! ### What a host write does -/

/-- The updates a write of `v` to the register `r` can make (20_memory.md rule R40), each with its guard. -/
inductive HostWrites (r : Reg) (v : Word) (s : State) : State → Prop
  | ignored : HostWrites r v s s
  | accepted (hr : r = .cmd) (hb : s.busy = false) (hv : legal v = true) : HostWrites r v s (s.accept v)
  | illegal (hr : r = .cmd) (hb : s.busy = false) (hv : legal v = false) : HostWrites r v s (s.recordError .illegalCmd)
  | dropped (hb : s.busy = true) : HostWrites r v s (s.recordError .busyWrite)
  | cleared (hr : r = .status) (hv : clearsError v = true) : HostWrites r v s s.clearError
  | operand (hr : r ∈ [Reg.arg0, .arg1, .arg2, .arg3]) (hb : s.busy = false) (a0 a1 a2 a3 : Word) :
      HostWrites r v s (s.withArgs a0 a1 a2 a3)

/-- A write to `STATUS` is write-1-to-clear. -/
theorem hostWrite_status (v : Word) (s : State) :
    hostWrite .status v s = if clearsError v then s.clearError else s := rfl

/-- Every host write makes one of these updates. -/
theorem hostWrite_writes (r : Reg) (v : Word) (s : State) : HostWrites r v s (hostWrite r v s) := by
  cases r
  case cmd =>
    change HostWrites .cmd v s (writeCmd v s)
    unfold writeCmd
    split
    · next hb => exact .dropped hb
    · next hb =>
      have hb' : s.busy = false := Bool.eq_false_iff.mpr hb
      split
      · next hv => exact .accepted rfl hb' hv
      · next hv => exact .illegal rfl hb' (Bool.eq_false_iff.mpr hv)
  case status =>
    rw [hostWrite_status]
    split
    · next hv => exact .cleared rfl hv
    · exact .ignored
  case arg0 | arg1 | arg2 | arg3 =>
    change HostWrites _ v s (writeArg s _)
    unfold writeArg
    split
    · next hb => exact .dropped hb
    · next hb => exact .operand (by decide) (Bool.eq_false_iff.mpr hb) _ _ _ _
  all_goals exact .ignored

/-! ### The three parts of the invariant -/

/-- A sequence selector's increment is odd (10_state.md rule R18). -/
theorem seedInc_getLsbD_zero (q : Word) : (seedInc q).getLsbD 0 = true := by
  simp [seedInc]

/-- The reset increments end in a 1 whatever the parameters are (70_reset_and_hazards.md rule R124). -/
theorem oddIncs_reset : State.reset.OddIncs := by
  refine ⟨?_, ?_, ?_⟩ <;> simp [Gen.odd, State.reset, Config.resetGInc, Config.resetHInc, Config.resetLInc]

/-- A command leaves odd increments odd: it keeps them, or seeds them with a selector's. -/
theorem Writes.oddIncs {s t : State} {i : Instr} (h : Writes s i t) (hs : s.OddIncs) : t.OddIncs := by
  obtain ⟨hg, hhi, hlo⟩ := hs
  cases h
  case baseSeed w q => exact ⟨seedInc_getLsbD_zero q, hhi, hlo⟩
  case compSeed h l qHi qLo => exact ⟨hg, seedInc_getLsbD_zero qHi, seedInc_getLsbD_zero qLo⟩
  all_goals exact ⟨hg, hhi, hlo⟩

/-- Recording an error leaves a legal `ERRCODE`: the one recorded before, or one of the two codes. -/
theorem State.StatusOk.recordError {s : State} (hs : s.StatusOk) (e : ErrorCode) : (s.recordError e).StatusOk := by
  unfold State.StatusOk
  rw [State.recordError_status]
  split
  · exact hs
  · cases e
    · exact .inr ⟨rfl, .inl rfl⟩
    · exact .inr ⟨rfl, .inr rfl⟩

/-- Every host write leaves a legal `ERRCODE` (10_state.md rule R24). -/
theorem HostWrites.statusOk {r : Reg} {v : Word} {s t : State} (h : HostWrites r v s t) (hs : s.StatusOk) :
    t.StatusOk := by
  cases h
  case illegal | dropped => exact hs.recordError _
  case cleared => exact .inl ⟨rfl, rfl⟩
  all_goals exact hs

/-- Every host write leaves `CMD` and `pending` legal: only an accepted word changes them (20_memory.md rule R40). -/
theorem HostWrites.cmdOk {r : Reg} {v : Word} {s t : State} (h : HostWrites r v s t) (hs : s.CmdOk) : t.CmdOk := by
  cases h
  case accepted hv => exact ⟨.inr hv, fun w hw => by cases hw; exact ⟨rfl, hv⟩⟩
  case illegal | dropped => simpa only [State.CmdOk, State.recordError_cmd, State.recordError_pending] using hs
  all_goals exact hs

/-- A completed command leaves `CMD` as it was and nothing pending. -/
theorem State.CmdOk.complete_exec {s t : State} {i : Instr} (hs : s.CmdOk) (h : exec i s = .next t) :
    t.complete.CmdOk := by
  obtain ⟨hcmd, -⟩ := exec_frame h
  refine ⟨?_, fun w hw => by cases hw⟩
  rw [State.complete_cmd, hcmd]
  exact hs.1

/-! ### Predicates every step keeps -/

/-- A run of one more step is the step, then the rest of the run. -/
theorem run_succ_next {M : Host.Core} {n : Nat} {s t : M.State} (h : M.run (n + 1) s = .next t) :
    ∃ u, M.step s = .next u ∧ M.run n u = .next t := by
  rw [Host.Core.run] at h
  split at h
  · next u hu => exact ⟨u, hu, h⟩
  · cases h
  · cases h

/-- A read moves at most the model's own counter on. -/
theorem hostRead_eq_withFresh (r : Reg) (s : State) : ∃ n, (hostRead r s).2 = { s with fresh := n } := by
  unfold hostRead
  split
  · exact ⟨_, rfl⟩
  · exact ⟨s.fresh, rfl⟩

/-- What makes a predicate on states one that every step keeps: it does not look at the host's data or the turns, and it is
kept by a host write and by a command that completes, and holds after reset. -/
structure StepKept (P : State → Prop) : Prop where
  agents : ∀ {s : State} (p : List HostOp) (ts : List Turn) (rs : List Word) (n : Nat), P s →
    P { s with program := p, turns := ts, reads := rs, fresh := n }
  write : ∀ {s : State} (r : Reg) (v : Word), P s → P (hostWrite r v s)
  command : ∀ {s t : State} (i : Instr), P s → exec i s = .next t → P t.complete
  reset : ∀ s : State, P s.applyReset

namespace StepKept

variable {P Q : State → Prop}

/-- A conjunction is kept part by part. -/
theorem and (hP : StepKept P) (hQ : StepKept Q) : StepKept fun s => P s ∧ Q s where
  agents p ts rs n h := ⟨hP.agents p ts rs n h.1, hQ.agents p ts rs n h.2⟩
  write r v h := ⟨hP.write r v h.1, hQ.write r v h.2⟩
  command i h he := ⟨hP.command i h.1 he, hQ.command i h.2 he⟩
  reset s := ⟨hP.reset s, hQ.reset s⟩

/-- Such a predicate is kept by the host's turn, whatever its statement is. -/
theorem hostStep (hP : StepKept P) {s t : State} (hs : P s) (h : hostStep s = .next t) : P t := by
  obtain ⟨-, rfl⟩ | ⟨_, _, v, rest, r, -, -, rfl⟩ | ⟨_, _, rest, r, -, -, rfl⟩ | ⟨rest, -, hpoll⟩ :=
    hostStep_next_cases s t h
  · exact hs
  · exact hP.agents rest _ _ _ (hP.write r v hs)
  · obtain ⟨n, hn⟩ := hostRead_eq_withFresh r s
    rw [hn]
    exact hP.agents (s := s) rest _ _ n hs
  · obtain ⟨-, rfl⟩ | ⟨-, rfl⟩ := hpoll
    · exact hs
    · exact hP.agents rest _ _ _ hs

/-- It is kept by the block's turn: an idle one, or one in which a command completes. -/
theorem blockStep (hP : StepKept P) {s t : State} (hs : P s) (h : blockStep s = .next t) : P t := by
  obtain ⟨-, rfl⟩ | ⟨_, i, u, -, -, hu, rfl⟩ := blockStep_next_cases s t h
  · exact hs
  · exact hP.command i hs hu

/-- It is kept by every step, whoever's turn it is. -/
theorem step (hP : StepKept P) {s t : State} (hs : P s) (h : step s = .next t) : P t := by
  obtain ⟨k, ts, hk, -⟩ := step_next_cases s t h
  have hs' : P { s with turns := ts } := hP.agents _ ts _ _ hs
  obtain ⟨-, hh⟩ | ⟨-, hb⟩ | ⟨-, rfl⟩ := takeTurn_next_cases k _ t hk
  · exact hP.hostStep hs' hh
  · exact hP.blockStep hs' hb
  · exact hP.reset _

/-- A predicate every step keeps holds after any number of steps. -/
theorem run (hP : StepKept P) (n : Nat) {s t : State} (hs : P s) (h : Host.Core.run Sys2Proof.core n s = .next t) :
    P t := by
  induction n generalizing s with
  | zero => cases h; exact hs
  | succ n ih =>
    obtain ⟨u, hu, hrun⟩ := run_succ_next h
    exact ih (hP.step hs hu) hrun

end StepKept

/-- Every step keeps the increments odd (10_state.md rule R18). -/
theorem stepKept_oddIncs : StepKept State.OddIncs where
  agents _ _ _ _ h := h
  write r v h := by simpa only [State.OddIncs, hostWrite_g, hostWrite_c] using h
  command i h he := (exec_writes i _ _ he).oddIncs h
  reset _ := oddIncs_reset

/-- Every step keeps `CMD` and `pending` legal (10_state.md rules R23, R28). -/
theorem stepKept_cmdOk : StepKept State.CmdOk where
  agents _ _ _ _ h := h
  write r v h := (hostWrite_writes r v _).cmdOk h
  command _ h he := h.complete_exec he
  reset _ := ⟨.inl rfl, fun _ hw => by cases hw⟩

/-- Every step keeps `ERR` and `ERRCODE` legal (10_state.md rule R24). -/
theorem stepKept_statusOk : StepKept State.StatusOk where
  agents _ _ _ _ h := h
  write r v h := (hostWrite_writes r v _).statusOk h
  command i h he := by
    obtain ⟨-, hstatus, -⟩ := exec_frame he
    simpa only [State.StatusOk, State.complete_status, hstatus] using h
  reset _ := .inl ⟨rfl, rfl⟩

/-- Settles O58: commands keep the increments or seed odd ones, and no host access touches them. -/
theorem stepKeepsIncrementsOdd : Obligations.StepKeepsIncrementsOdd :=
  ⟨oddIncs_reset, fun _ _ hs h => stepKept_oddIncs.step hs h,
    fun n p ts _ h => stepKept_oddIncs.run n (stepKept_oddIncs.agents p ts _ _ oddIncs_reset) h⟩

/-- Settles O59: the three parts of the invariant, each kept by every step. -/
theorem stepKeepsTheInvariant : Obligations.StepKeepsTheInvariant :=
  fun _ _ hs h => (stepKept_oddIncs.and (stepKept_cmdOk.and stepKept_statusOk)).step hs h

/-! ### `STATUS` -/

/-- The word read from `STATUS`, bit by bit (10_state.md rule R24). -/
theorem statusWord_getLsbD (s : State) {k : Nat} (hk : k < 64) :
    s.statusWord.getLsbD k =
      if k = 0 then s.busy else if k = 1 then s.status.err else if k < 8 then false
      else s.status.errcode.getLsbD (k - 8) := by
  unfold State.statusWord
  match k with
  | 0 | 1 => simp
  | k + 2 => simp [hk]

/-- The reserved bits between `ERR` and `ERRCODE` read 0. -/
theorem statusWord_reservedLow (s : State) : s.statusWord.extractLsb' 2 6 = 0 := by
  refine BitVec.eq_of_getLsbD_eq fun k hk => ?_
  rw [BitVec.getLsbD_extractLsb', statusWord_getLsbD s (by omega), if_neg (by omega), if_neg (by omega),
    if_pos (by omega), Bool.and_false, BitVec.ofNat_eq_ofNat, BitVec.getLsbD_zero]

/-- Bits 15:8 read `ERRCODE`. -/
theorem statusWord_errcode (s : State) : s.statusWord.extractLsb' 8 8 = s.status.errcode := by
  refine BitVec.eq_of_getLsbD_eq fun k hk => ?_
  rw [BitVec.getLsbD_extractLsb', statusWord_getLsbD s (by omega), if_neg (by omega), if_neg (by omega),
    if_neg (by omega)]
  simp [hk]

/-- The reserved bits above `ERRCODE` read 0. -/
theorem statusWord_reservedHigh (s : State) : s.statusWord.extractLsb' 16 48 = 0 := by
  refine BitVec.eq_of_getLsbD_eq fun k hk => ?_
  rw [BitVec.getLsbD_extractLsb', statusWord_getLsbD s (by omega), if_neg (by omega), if_neg (by omega),
    if_neg (by omega), BitVec.getLsbD_of_ge _ _ (by omega), Bool.and_false, BitVec.ofNat_eq_ofNat, BitVec.getLsbD_zero]

/-- Settles O44: the fields from the bits of `STATUS`, the writes from what a host write does. -/
theorem statusWordHasItsFields : Obligations.StatusWordHasItsFields := by
  intro s
  refine ⟨statusWord_getLsbD s (by decide), statusWord_getLsbD s (by decide), statusWord_reservedLow s,
    statusWord_errcode s, statusWord_reservedHigh s, ?_, ?_, fun hs r v => (hostWrite_writes r v s).statusOk hs, rfl⟩
  · intro v hv
    rw [hostWrite_status, clearsError, if_pos hv, State.clearError_status]
  · intro v hv
    rw [hostWrite_status, clearsError, if_neg (Bool.eq_false_iff.mp hv)]

/-! ### Reset -/

/-- Settles O56: the turn is taken from the list, and each register of a reset state has its reset value. -/
theorem resetSetsEveryRegister : Obligations.ResetSetsEveryRegister := by
  intro s ts
  constructor
  · intro h
    refine ⟨State.applyReset { s with turns := ts }, step_of_turn s .reset ts h, ?_⟩
    simp
  · exact step_of_turn s .hostInReset ts

end Sys2Proof.Machine
end

section
/-! PROOFS. The LCG with an odd increment is one cycle, so that the bounded samplers end: every command completes. -/

namespace Sys2Proof.Machine

/-! ### The LCG with an odd increment is one cycle (40_base_generator.md rule R69) -/

/-- The state after `n` steps in closed form. -/
theorem lcgSteps_eq_geomSum (inc : Word) (n : Nat) (s : Word) :
    lcgSteps inc n s = mult64 ^ n * s + inc * ∑ i ∈ Finset.range n, mult64 ^ i := by
  induction n with
  | zero => simp
  | succ n ih =>
    rw [lcgSteps_succ_last, ih, lcg64, geom_sum_succ]
    ring

/-- How far `n` steps move the state. -/
theorem lcgSteps_eq_add (inc : Word) (n : Nat) (s : Word) :
    lcgSteps inc n s = s + (∑ i ∈ Finset.range n, mult64 ^ i) * ((mult64 - 1) * s + inc) := by
  have hgeom := geom_sum_mul mult64 n
  rw [lcgSteps_eq_geomSum, mul_add, ← mul_assoc, hgeom]
  ring

/-- A word is odd when its bit 0 is set. -/
theorem getLsbD_zero_eq_true_iff (x : Word) : x.getLsbD 0 = true ↔ x.toNat % 2 = 1 := by
  simp [BitVec.getLsbD]

/-- The geometric sum of the multiplier, times an odd word, is 0 exactly for a multiple of 2^64 of summands. -/
theorem geomSum_mul_eq_zero_iff (n : Nat) (d : Word) (hd : d.getLsbD 0 = true) :
    (∑ i ∈ Finset.range n, mult64 ^ i) * d = 0 ↔ 2 ^ 64 ∣ n := by
  have hodd : Odd d.toNat := Nat.odd_iff.2 ((getLsbD_zero_eq_true_iff d).1 hd)
  have hco : Nat.Coprime (2 ^ 64) d.toNat := Nat.Coprime.pow_left 64 (Nat.coprime_two_left.2 hodd)
  have hcast : (∑ i ∈ Finset.range n, mult64 ^ i) * d =
      BitVec.ofNat 64 ((∑ i ∈ Finset.range n, 0x5851f42d4c957f2d ^ i) * d.toNat) := by
    rw [← BitVec.natCast_eq_ofNat, Nat.cast_mul, Nat.cast_sum, BitVec.natCast_eq_ofNat, BitVec.ofNat_toNat,
      BitVec.setWidth_eq]
    simp only [Nat.cast_pow]
    rfl
  rw [hcast, ← BitVec.toNat_inj, BitVec.toNat_ofNat]
  change _ = 0 ↔ _
  rw [← Nat.dvd_iff_mod_eq_zero, hco.dvd_mul_right, two_pow_dvd_geomSum_iff _ (by decide)]

/-- With an odd increment the state comes back after the multiples of 2^64 steps and no others. -/
theorem lcgSteps_eq_self_iff (inc : Word) (hinc : inc.getLsbD 0 = true) (n : Nat) (s : Word) :
    lcgSteps inc n s = s ↔ 2 ^ 64 ∣ n := by
  have hodd : ((mult64 - 1) * s + inc).getLsbD 0 = true := by
    have heven : mult64 - 1 = 0x5851f42d4c957f2c#64 := by decide
    rw [getLsbD_zero_eq_true_iff] at hinc ⊢
    rw [heven, BitVec.toNat_add, BitVec.toNat_mul]
    simp only [BitVec.toNat_ofNat]
    omega
  rw [lcgSteps_eq_add, add_eq_left, geomSum_mul_eq_zero_iff n _ hodd]

/-- With an odd increment the first 2^64 states are all different. -/
theorem eq_of_lcgSteps_eq (inc : Word) (hinc : inc.getLsbD 0 = true) (s : Word) {m n : Nat} (hmn : m ≤ n)
    (hn : n < 2 ^ 64) (h : lcgSteps inc m s = lcgSteps inc n s) : m = n := by
  rw [← Nat.add_sub_cancel' hmn, lcgSteps_add, eq_comm, lcgSteps_eq_self_iff inc hinc] at h
  have := Nat.eq_zero_of_dvd_of_lt h (by omega)
  omega

/-- With an odd increment every state is reached within 2^64 steps. -/
theorem exists_lcgSteps_eq (inc : Word) (hinc : inc.getLsbD 0 = true) (s t : Word) :
    ∃ n, n < 2 ^ 64 ∧ lcgSteps inc n s = t := by
  have hinj : Function.Injective fun k : Fin (2 ^ 64) => (lcgSteps inc k s).toFin := by
    intro j k hjk
    have hsteps : lcgSteps inc j s = lcgSteps inc k s := BitVec.toFin_inj.1 hjk
    rcases Nat.le_total j k with hle | hle
    · exact Fin.ext (eq_of_lcgSteps_eq inc hinc s hle k.isLt hsteps)
    · exact Fin.ext (eq_of_lcgSteps_eq inc hinc s hle j.isLt hsteps.symm).symm
  obtain ⟨k, hk⟩ := Finite.surjective_of_injective hinj t.toFin
  exact ⟨k, k.isLt, BitVec.toFin_inj.1 hk⟩

/-! ### A bounded command ends (40_base_generator.md rule R83, 41_composite_generator.md rule R102) -/

/-- The threshold is less than half of all draws, so a draw with its top bit set is accepted. -/
theorem threshold_le_of_msb {n : Nat} (bound x : BitVec n) (hb : bound ≠ 0) (hx : x.msb = true) :
    threshold bound ≤ x := by
  have hpos : 0 < bound.toNat := Nat.pos_of_ne_zero (by simpa [BitVec.toNat_eq] using hb)
  have hlt := bound.isLt
  have hx2 := BitVec.msb_eq_true_iff_two_mul_ge.1 hx
  have hle := Nat.mod_le (2 ^ n - bound.toNat) bound.toNat
  have hmod := Nat.mod_lt (2 ^ n - bound.toNat) hpos
  have hneg : (-bound).toNat = 2 ^ n - bound.toNat := by
    rw [BitVec.toNat_neg, Nat.mod_eq_of_lt (by omega)]
  rw [BitVec.le_def, threshold, BitVec.toNat_umod, hneg]
  omega

section sampling

variable {n : Nat} {σ : Type} (draw : σ → BitVec n × σ) (thr bound : BitVec n)

/-- The rejection loop gives up exactly when none of the draws it is allowed is accepted. -/
theorem rejectionLoop_eq_none_iff (limit : Nat) (s : σ) :
    rejectionLoop draw thr bound limit s = none ↔
      ∀ k < limit, ¬ thr ≤ (draw ((fun x => (draw x).2)^[k] s)).1 := by
  induction limit generalizing s with
  | zero => simp [rejectionLoop]
  | succ limit ih =>
    rw [Nat.forall_lt_succ_left]
    by_cases h : thr ≤ (draw s).1
    · simp [rejectionLoop_accept draw thr bound limit s h, h]
    · rw [rejectionLoop_reject draw thr bound limit s h, ih]
      simp [h]

/-- The sampler ends within its allowance if one of those draws has its top bit set. -/
theorem exists_bounded_eq_some (limit k : Nat) (s : σ) (hk : k < limit)
    (hmsb : (draw ((fun x => (draw x).2)^[k] s)).1.msb = true) : ∃ r, bounded draw limit bound s = some r := by
  by_cases hb : bound = 0
  · exact ⟨(0, s), if_pos hb⟩
  · rw [bounded_of_ne_zero draw bound limit s hb, ← Option.ne_none_iff_exists', ne_eq, rejectionLoop_eq_none_iff]
    exact fun hnone => hnone k hk (threshold_le_of_msb bound _ hb hmsb)

end sampling

/-- With an odd increment some draw within 2^64 has its top bit set: the state 2^58 gives one. -/
theorem exists_xshrr_msb (inc : Word) (hinc : inc.getLsbD 0 = true) (s : Word) :
    ∃ k, k < 2 ^ 64 ∧ (xshrr (lcgSteps inc k s)).msb = true := by
  obtain ⟨k, hk, hstate⟩ := exists_lcgSteps_eq inc hinc s 0x0400000000000000
  exact ⟨k, hk, by rw [hstate]; decide⟩

/-- Drawing again and again from a base generator steps its state. -/
theorem iterate_next32 (inc : Word) (k : Nat) (s : Word) :
    (fun w => (next32 w inc).2)^[k] s = lcgSteps inc k s := by
  induction k generalizing s with
  | zero => rfl
  | succ k ih => exact ih (lcg64 s inc)

/-- Drawing again and again on the fast path steps each half by itself. -/
theorem iterate_drawCombined (hiInc loInc : Word) (k : Nat) (s : Word × Word) :
    (fun x => (drawCombined hiInc loInc x).2)^[k] s = (lcgSteps hiInc k s.1, lcgSteps loInc k s.2) := by
  induction k generalizing s with
  | zero => rfl
  | succ k ih => exact ih (lcg64 s.1 hiInc, lcg64 s.2 loInc)

/-- The top bit of a fast-path draw is that of the high half's draw. -/
theorem msb_drawCombined (hiInc loInc : Word) (s : Word × Word) :
    (drawCombined hiInc loInc s).1.msb = (xshrr s.1).msb := by
  simp [drawCombined, next32, BitVec.msb_eq_getLsbD_last]

/-- The 32-bit sampler answers for every bound when the increment is odd. -/
theorem exists_bounded32_eq_some (s inc : Word) (bound : Word32) (hinc : inc.getLsbD 0 = true) :
    ∃ r, bounded32 s inc bound = some r := by
  obtain ⟨k, hk, hmsb⟩ := exists_xshrr_msb inc hinc s
  refine exists_bounded_eq_some _ bound drawLimit32 k s hk ?_
  rw [iterate_next32]
  exact hmsb

/-- The fast-path sampler answers for every bound when the high half's increment is odd. -/
theorem exists_bounded_drawCombined_eq_some (hiInc loInc bound : Word) (s : Word × Word)
    (hinc : hiInc.getLsbD 0 = true) : ∃ r, bounded (drawCombined hiInc loInc) drawLimit64 bound s = some r := by
  obtain ⟨k, hk, hmsb⟩ := exists_xshrr_msb hiInc hinc s.1
  refine exists_bounded_eq_some _ bound drawLimit64 k s (hk.trans_le (by decide)) ?_
  rw [iterate_drawCombined, msb_drawCombined]
  exact hmsb

/-- With odd increments every command answers a next state (20_memory.md rule R46). -/
theorem exists_exec_eq_next (i : Instr) (s : State) (hs : s.OddIncs) : ∃ t, exec i s = .next t := by
  obtain ⟨hg, hhi, -⟩ := hs
  cases i
  case g32Bounded =>
    obtain ⟨d, hd⟩ := exists_bounded32_eq_some s.g.state s.g.inc s.opBound32 hg
    exact ⟨_, (finishSample_next _ _ _).2 ⟨d, hd, rfl⟩⟩
  case c64Bounded =>
    obtain ⟨d, hd⟩ := exists_bounded_drawCombined_eq_some s.c.hi.inc s.c.lo.inc s.opBound64
      (s.c.hi.state, s.c.lo.state) hhi
    exact ⟨_, (finishSample_next _ _ _).2 ⟨d, hd, rfl⟩⟩
  all_goals exact ⟨_, rfl⟩

end Sys2Proof.Machine
end

section
/-! PROOFS. The statements of 20_memory.md: the register window, the host's accesses and the block's step. -/

namespace Sys2Proof.Machine

/-! ### Offsets and registers (20_memory.md rules R33, R34) -/

/-- The two directions of the register map agree. -/
theorem regOfOffset_eq_some_iff (off : Nat) (r : Reg) : regOfOffset off = some r ↔ r.offset = off := by
  constructor
  · intro h
    unfold regOfOffset at h
    split at h <;> cases h <;> rfl
  · rintro rfl
    cases r <;> rfl

/-- Every register stands at a multiple of 8 in the window. -/
theorem offset_aligned_in_window (r : Reg) : r.offset % 8 = 0 ∧ r.offset ≤ 0x68 := by
  cases r <;> decide

/-- The window is full: every multiple of 8 in it is some register's offset. -/
theorem exists_regOfOffset_iff (off : Nat) : (∃ r, regOfOffset off = some r) ↔ off % 8 = 0 ∧ off ≤ 0x68 := by
  constructor
  · rintro ⟨r, hr⟩
    rw [← (regOfOffset_eq_some_iff off r).1 hr]
    exact offset_aligned_in_window r
  · rintro ⟨hmod, hle⟩
    have hall : ∀ k < 14, (regOfOffset (8 * k)).isSome = true := by decide
    rw [← Nat.mul_div_cancel' (Nat.dvd_of_mod_eq_zero hmod), ← Option.isSome_iff_exists]
    exact hall (off / 8) (by omega)

/-- A defined access reaches the register at its offset, and only a 64-bit one does. -/
theorem accessTarget_eq_some_iff (width off : Nat) (r : Reg) :
    accessTarget width off = some r ↔ width = 64 ∧ r.offset = off := by
  unfold accessTarget
  split
  · next hw => simp [hw, regOfOffset_eq_some_iff]
  · next hw => simp [hw]

/-- An access reaches a register exactly when rule R34 defines it. -/
theorem exists_accessTarget_iff (width off : Nat) :
    (∃ r, accessTarget width off = some r) ↔ width = 64 ∧ off % 8 = 0 ∧ off ≤ 0x68 := by
  simp only [accessTarget_eq_some_iff, exists_and_left, ← regOfOffset_eq_some_iff, exists_regOfOffset_iff]

/-- The condition on a statement's access is that of rule R34. -/
theorem accessWf_iff (width off : Nat) : accessWf width off = true ↔ width = 64 ∧ off % 8 = 0 ∧ off ≤ 0x68 := by
  simp only [accessWf, Bool.and_eq_true, beq_iff_eq, decide_eq_true_eq]
  omega

/-- Settles O7: the table row by row, and the offsets without a register from the full window. -/
theorem windowHoldsFourteenRegisters : Obligations.WindowHoldsFourteenRegisters := by
  refine ⟨by decide, fun off => ?_⟩
  rw [← exists_regOfOffset_iff, ← Option.ne_none_iff_exists', not_not]

/-! ### Reads and writes (20_memory.md rules R39, R40) -/

/-- With none pending, every register reads as its value, and the read changes nothing. -/
theorem hostRead_of_idle (r : Reg) (s : State) (h : s.pending = none) : hostRead r s = (s.regValue r, s) := by
  simp [hostRead, State.busy, h]

/-- `CMD`, `STATUS` and the operand registers read as their value in every state. -/
theorem hostRead_of_not_free (r : Reg) (s : State) (h : freeWhileBusy r = false) :
    hostRead r s = (s.regValue r, s) := by
  simp [hostRead, h]

/-- A result or state register read with a command pending gives the next free value. -/
theorem hostRead_of_free (r : Reg) (s : State) (h : freeWhileBusy r = true) (hb : s.busy = true) :
    hostRead r s = (Config.freeRead s.fresh, { s with fresh := s.fresh + 1 }) := by
  simp [hostRead, h, hb]

/-- What a read returns does not depend on the turns to come. -/
theorem hostRead_fst_withTurns (r : Reg) (s : State) (ts : List Turn) :
    (hostRead r { s with turns := ts }).1 = (hostRead r s).1 := by
  simp only [hostRead, apply_ite Prod.fst]
  cases r <;> rfl

/-- The word read from `STATUS` as a number: its fields do not overlap, so their bits add up. -/
theorem statusWord_eq_ofNat (s : State) :
    s.statusWord = BitVec.ofNat 64
      (s.status.errcode.toNat * 256 + s.status.err.toNat * 2 + s.pending.isSome.toNat) := by
  have hcode : s.status.errcode.setWidth 64 <<< 8 = BitVec.ofNat 64 (s.status.errcode.toNat <<< 8) := by
    refine BitVec.eq_of_toNat_eq ?_
    simp [Nat.shiftLeft_eq]
  have hflags : (BitVec.ofBool s.status.err).setWidth 64 <<< 1 ||| (BitVec.ofBool s.busy).setWidth 64
      = BitVec.ofNat 64 (s.status.err.toNat * 2 + s.busy.toNat) := by
    cases s.status.err <;> cases s.busy <;> rfl
  have hlow : s.status.err.toNat * 2 + s.busy.toNat < 2 ^ 8 := by
    have := s.status.err.toNat_le
    have := s.busy.toNat_le
    omega
  have hsum := Nat.shiftLeft_add_eq_or_of_lt hlow s.status.errcode.toNat
  rw [State.statusWord, BitVec.or_assoc, hflags, hcode, ← BitVec.ofNat_or, ← hsum, Nat.shiftLeft_eq, ← Nat.add_assoc]
  rfl

/-- Settles O42: what a read returns, by whether the register is free while busy and whether a command is pending. -/
theorem hostReadReturnsTheRegister : Obligations.HostReadReturnsTheRegister := by
  intro s
  refine ⟨hostRead_of_not_free .cmd s rfl, hostRead_of_not_free .arg0 s rfl, hostRead_of_not_free .arg1 s rfl,
    hostRead_of_not_free .arg2 s rfl, hostRead_of_not_free .arg3 s rfl, ?_, fun hp => ?_, fun w hp r hr => ?_⟩
  · rw [← statusWord_eq_ofNat]
    exact hostRead_of_not_free .status s rfl
  · simp only [hostRead_of_idle _ s hp]
    exact ⟨rfl, rfl, rfl, rfl, rfl, rfl, rfl, rfl⟩
  · refine hostRead_of_free r s ?_ ((State.busy_eq_true_iff s).2 ⟨w, hp⟩)
    fin_cases hr <;> rfl

/-- A write to `CMD` with none pending accepts a legal word. -/
theorem hostWrite_cmd_of_legal (v : Word) (s : State) (h : s.pending = none) (hv : legal v = true) :
    hostWrite .cmd v s = s.accept v := by
  simp [hostWrite, writeCmd, State.busy, h, hv]

/-- A write to `CMD` with none pending records an illegal word. -/
theorem hostWrite_cmd_of_illegal (v : Word) (s : State) (h : s.pending = none) (hv : legal v = false) :
    hostWrite .cmd v s = s.recordError .illegalCmd := by
  simp [hostWrite, writeCmd, State.busy, h, hv]

/-- A write to `CMD` or an operand register with a command pending is dropped and recorded. -/
theorem hostWrite_of_busy (r : Reg) (v : Word) (s : State) (hb : s.busy = true)
    (hr : r ∈ [Reg.cmd, .arg0, .arg1, .arg2, .arg3]) : hostWrite r v s = s.recordError .busyWrite := by
  fin_cases hr <;> exact if_pos hb

/-- An operand register takes the value written while none is pending. -/
theorem writeArg_of_idle (s stored : State) (h : s.pending = none) : writeArg s stored = stored := by
  simp [writeArg, State.busy, h]

/-- Settles O43: a write to each register, by its kind and whether a command is pending. -/
theorem hostWriteHasItsEffect : Obligations.HostWriteHasItsEffect := by
  intro s v
  refine ⟨hostWrite_cmd_of_legal v s, hostWrite_cmd_of_illegal v s, fun w hp r hr => ?_, fun hp => ?_, fun hv => ?_,
    fun hv => ?_, fun r hr => ?_⟩
  · exact hostWrite_of_busy r v s ((State.busy_eq_true_iff s).2 ⟨w, hp⟩) hr
  · exact ⟨writeArg_of_idle s _ hp, writeArg_of_idle s _ hp, writeArg_of_idle s _ hp, writeArg_of_idle s _ hp⟩
  · rw [hostWrite_status, clearsError, if_pos hv]
    rfl
  · rw [hostWrite_status, clearsError, if_neg (Bool.eq_false_iff.mp hv)]
  · fin_cases hr <;> rfl

/-! ### Whose turn it is (20_memory.md rule R41) -/

/-- A step is the turn of whoever is next, from the state with that turn used up. -/
theorem step_eq_takeTurn (s : State) : step s = takeTurn s.turnNow { s with turns := s.turns.tail } :=
  match s with
  | { turns := [], .. } => rfl
  | { turns := _ :: _, .. } => rfl

/-- At the host's turn, fixed or by default, a step is the host's access. -/
theorem step_of_host_turn {s : State} {ts : List Turn}
    (h : s.turns = .host :: ts ∨ (s.turns = [] ∧ ts = [] ∧ s.pending = none)) :
    step s = hostStep { s with turns := ts } := by
  rw [step_eq_takeTurn]
  obtain hts | ⟨hts, rfl, hp⟩ := h
  · simp [State.turnNow, hts, takeTurn]
  · simp [State.turnNow, hts, defaultTurn, State.busy, hp, takeTurn]

/-- The same, from whose turn it is. -/
theorem step_of_turnNow_host {s : State} (h : s.turnNow = .host) :
    step s = hostStep { s with turns := s.turns.tail } := by
  rw [step_eq_takeTurn, h]
  rfl

/-- At the block's turn, fixed or by default with a command pending, a step is the block's. -/
theorem step_of_block_turn {s : State} {ts : List Turn}
    (h : s.turns = .block :: ts ∨ (s.turns = [] ∧ ts = [] ∧ s.pending ≠ none)) :
    step s = blockStep { s with turns := ts } := by
  rw [step_eq_takeTurn]
  obtain hts | ⟨hts, rfl, hp⟩ := h
  · simp [State.turnNow, hts, takeTurn]
  · simp [State.turnNow, hts, defaultTurn, State.busy, Option.isSome_iff_ne_none.2 hp, takeTurn]

/-! ### The host's turn (20_memory.md rule R37, 30_encoding.md rule R63) -/

section host

variable {s t : State} {width off : Nat} {v : Word} {r : Reg} {rest : List HostOp}

/-- A write that reaches a register is `HostWrite`. -/
theorem hostStep_of_write (hp : s.program = .write width off v :: rest) (hr : accessTarget width off = some r) :
    hostStep s = .next { hostWrite r v s with program := rest } := by
  simp [hostStep, hp, hr]

/-- A read that reaches a register is `HostRead`, with the value put in the host's record. -/
theorem hostStep_of_read (hp : s.program = .read width off :: rest) (hr : accessTarget width off = some r) :
    hostStep s = .next { (hostRead r s).2 with program := rest, reads := (hostRead r s).1 :: s.reads } := by
  simp [hostStep, hp, hr]

/-- An access that reaches no register is refused. -/
theorem hostStep_of_undefined (hp : s.program = .read width off :: rest ∨ s.program = .write width off v :: rest)
    (hr : accessTarget width off = none) : hostStep s = .refused .undefinedAccess := by
  obtain hp | hp := hp <;> simp [hostStep, hp, hr]

/-- The bit a poll looks at is `BUSY`. -/
theorem hostStep_of_poll (hp : s.program = .poll :: rest) :
    hostStep s = if s.busy then .next s else .next { s with program := rest } := by
  have hbit : (hostRead .status s).1.getLsbD 0 = s.busy := statusWord_getLsbD s (by decide)
  simp only [hostStep, hp, hbit]

/-- A host without a statement does nothing. -/
theorem hostStep_of_done (hp : s.program = []) : hostStep s = .next s := by
  simp [hostStep, hp]

/-- A defined statement is never refused. -/
theorem exists_hostStep_eq_next (hwf : ∀ op, s.program.head? = some op → op.wf = true) :
    ∃ u, hostStep s = .next u := by
  cases hp : s.program with
  | nil => exact ⟨s, hostStep_of_done hp⟩
  | cons op rest =>
    have hop : op.wf = true := hwf op (by rw [hp]; rfl)
    cases op with
    | write width off v =>
      obtain ⟨r, hr⟩ := (exists_accessTarget_iff width off).2 ((accessWf_iff width off).1 hop)
      exact ⟨_, hostStep_of_write hp hr⟩
    | read width off =>
      obtain ⟨r, hr⟩ := (exists_accessTarget_iff width off).2 ((accessWf_iff width off).1 hop)
      exact ⟨_, hostStep_of_read hp hr⟩
    | poll =>
      rw [hostStep_of_poll hp]
      split <;> exact ⟨_, rfl⟩

/-- No host access changes a generator, a result or the turns to come. -/
theorem hostStep_frame (h : hostStep s = .next t) :
    t.g = s.g ∧ t.c = s.c ∧ t.res0 = s.res0 ∧ t.res1 = s.res1 ∧ t.turns = s.turns := by
  obtain ⟨-, rfl⟩ | ⟨_, _, v, rest, r, -, -, rfl⟩ | ⟨_, _, rest, r, -, -, rfl⟩ |
    ⟨rest, -, ⟨-, rfl⟩ | ⟨-, rfl⟩⟩ := hostStep_next_cases s t h
  case inr.inl | inr.inr.inl => simp
  all_goals exact ⟨rfl, rfl, rfl, rfl, rfl⟩

/-- With a command pending, a host write changes the status alone. -/
theorem HostWrites.eq_of_busy (h : HostWrites r v s t) (hb : s.busy = true) : t = { s with status := t.status } := by
  cases h
  case accepted hb' _ | illegal hb' _ | operand hb' _ _ _ _ => simp [hb] at hb'
  case dropped => exact State.recordError_eq s .busyWrite
  all_goals rfl

/-- With a command pending, the host's turn leaves all of the block but its status as it was (20_memory.md rule R42). -/
theorem hostStep_eq_of_busy (h : hostStep s = .next t) (hb : s.busy = true) :
    t = { s with status := t.status, program := t.program, reads := t.reads, fresh := t.fresh } := by
  obtain ⟨-, rfl⟩ | ⟨_, _, v, rest, r, -, -, rfl⟩ | ⟨_, _, rest, r, -, -, rfl⟩ |
    ⟨rest, -, ⟨-, rfl⟩ | ⟨-, rfl⟩⟩ := hostStep_next_cases s t h
  · rfl
  · rw [(hostWrite_writes r v s).eq_of_busy hb]
  · obtain ⟨n, hn⟩ := hostRead_eq_withFresh r s
    rw [hn]
  · rfl
  · rfl

/-- The host's turn leaves the same statements to come, or one less. -/
theorem hostStep_program_subset (h : hostStep s = .next t) : t.program ⊆ s.program := by
  obtain ⟨-, rfl⟩ | ⟨_, _, v, rest, r, hp, -, rfl⟩ | ⟨_, _, rest, r, hp, -, rfl⟩ |
    ⟨rest, hp, ⟨-, rfl⟩ | ⟨-, rfl⟩⟩ := hostStep_next_cases s t h
  · exact List.Subset.refl _
  · exact hp ▸ List.subset_cons_self _ _
  · exact hp ▸ List.subset_cons_self _ _
  · exact List.Subset.refl _
  · exact hp ▸ List.subset_cons_self _ _

end host

/-- Settles O8: the access reaches a register exactly when rule R34 defines it. -/
theorem undefinedAccessesAreRefused : Obligations.UndefinedAccessesAreRefused := by
  intro s width off v rest ts hturn hprog
  rw [step_of_host_turn hturn]
  constructor
  · intro hundef
    refine hostStep_of_undefined hprog ?_
    rwa [← exists_accessTarget_iff, ← Option.ne_none_iff_exists', not_not] at hundef
  · intro hdef
    obtain ⟨r, hr⟩ := (exists_accessTarget_iff width off).2 hdef
    obtain hread | hwrite := hprog
    · exact ⟨_, hostStep_of_read hread hr⟩
    · exact ⟨_, hostStep_of_write hwrite hr⟩

/-- Settles O49: the host's statement by its kind, then the block's turn with none pending. -/
theorem stepPerformsTheHostsAccess : Obligations.StepPerformsTheHostsAccess := by
  refine ⟨fun s ts rest r v hturn => ?_, fun s ts hts hp => ?_⟩
  · rw [step_of_host_turn hturn]
    have hr : accessTarget 64 r.offset = some r := (accessTarget_eq_some_iff 64 _ r).2 ⟨rfl, rfl⟩
    refine ⟨fun h => hostStep_of_write h hr, fun h => ?_, fun h hp => ?_, fun h hp => ?_, fun h => hostStep_of_done h⟩
    · rw [hostStep_of_read (s := { s with turns := ts }) h hr, hostRead_fst_withTurns]
    · rw [hostStep_of_poll (s := { s with turns := ts }) h, if_neg]
      simp [State.busy, hp]
    · rw [hostStep_of_poll (s := { s with turns := ts }) h, if_pos]
      exact Option.isSome_iff_ne_none.2 hp
  · rw [step_of_block_turn (.inl hts)]
    exact blockStep_of_idle _ hp

/-- Settles O48: the block's turn executes the pending word's command, whose outcome completes. -/
theorem stepRunsThePendingCommand : Obligations.StepRunsThePendingCommand := by
  intro s t w i ts hp hd hturn
  have hstep : step s = completing (exec i { s with turns := ts }) := by
    rw [step_of_block_turn (hturn.imp_right fun h => ⟨h.1, h.2, by simp [hp]⟩)]
    exact blockStep_of_command _ w i hp hd
  refine ⟨fun h => ?_, fun f h => ?_, fun r h => ?_⟩ <;> rw [hstep, h] <;> rfl

/-- Settles O50: acceptance by the effect of the write, and the host's turns by what they leave while busy. -/
theorem operandsAreFixedAtAcceptance : Obligations.OperandsAreFixedAtAcceptance := by
  refine ⟨fun s v hp hv => hostWrite_cmd_of_legal v s hp hv, fun s t w hp hturn h => ?_⟩
  rw [step_of_turnNow_host hturn] at h
  rw [hostStep_eq_of_busy h ((State.busy_eq_true_iff _).2 ⟨w, hp⟩)]
  exact ⟨hp, rfl, rfl, rfl, rfl, rfl, rfl, rfl, rfl, rfl⟩

/-! ### A poll ends with the command (20_memory.md rule R43) -/

/-- With none pending, a host write makes a command pending only as an accepted word. -/
theorem HostWrites.pending_of_idle {r : Reg} {v : Word} {s t : State} (h : HostWrites r v s t) (hp : s.pending = none)
    (ht : t.pending ≠ none) : r = .cmd ∧ legal v = true ∧ t.pending = some v := by
  cases h
  case accepted hr _ hv => exact ⟨hr, hv, rfl⟩
  all_goals simp [hp, State.withArgs] at ht

/-- Settles O52: the poll by the bit it reads, the reads by none pending, the last part by who can make one pending. -/
theorem pollEndsOnlyAfterCompletion : Obligations.PollEndsOnlyAfterCompletion := by
  refine ⟨fun s t rest hprog hturn h => ?_, fun s r => hostRead_of_idle r s, fun s t hp h ht => ?_⟩
  · rw [step_of_turnNow_host hturn, hostStep_of_poll (s := { s with turns := s.turns.tail }) hprog] at h
    split at h
    · next hb =>
      cases h
      exact .inr ⟨rfl, Option.isSome_iff_ne_none.1 hb⟩
    · next hb =>
      cases h
      have hnone : s.pending = none := (State.busy_eq_false_iff s).1 (Bool.eq_false_iff.2 hb)
      exact .inl ⟨rfl, hnone, hnone⟩
  · rw [step_eq_takeTurn] at h
    obtain ⟨hk, hh⟩ | ⟨-, hb⟩ | ⟨-, rfl⟩ := takeTurn_next_cases _ _ t h
    · refine ⟨hk, ?_⟩
      obtain ⟨-, rfl⟩ | ⟨width, off, v, rest, r, hprog, hr, rfl⟩ | ⟨_, _, rest, r, -, -, rfl⟩ |
        ⟨rest, -, ⟨-, rfl⟩ | ⟨-, rfl⟩⟩ := hostStep_next_cases _ t hh
      · exact absurd hp ht
      · obtain ⟨rfl, hv, hpend⟩ := (hostWrite_writes r v { s with turns := s.turns.tail }).pending_of_idle hp ht
        obtain ⟨rfl, rfl⟩ := (accessTarget_eq_some_iff width off .cmd).1 hr
        exact ⟨v, rest, hprog, hv, hpend⟩
      · rw [hostRead_pending] at ht
        exact absurd hp ht
      · exact absurd hp ht
      · exact absurd hp ht
    · rw [blockStep_of_idle { s with turns := s.turns.tail } hp] at hb
      cases hb
      exact absurd hp ht
    · exact absurd rfl ht

/-! ### The host's access and the block's step commute (20_memory.md rules R37, R41, R42) -/

/-- The state with other status bits, and other agents around the block. -/
def State.withAgents (s : State) (st : Status) (p : List HostOp) (ts : List Turn) (rs : List Word) (n : Nat) : State :=
  { s with status := st, program := p, turns := ts, reads := rs, fresh := n }

/-- No command reads or writes the status or the agents. -/
theorem exec_withAgents (i : Instr) (s : State) (st : Status) (p : List HostOp) (ts : List Turn) (rs : List Word)
    (n : Nat) : exec i (s.withAgents st p ts rs n) = mapNext (fun t => t.withAgents st p ts rs n) (exec i s) := by
  have hsample : ∀ {α : Type} (o : Option α) (f g : α → State), (∀ a, g a = (f a).withAgents st p ts rs n) →
      finishSample o g = mapNext (fun t => t.withAgents st p ts rs n) (finishSample o f) := by
    intro α o f g hfg
    cases o
    · rfl
    · exact congrArg _ (hfg _)
  cases i
  case g32Bounded | c64Bounded => exact hsample _ _ _ fun _ => rfl
  all_goals rfl

/-- Nor does the block's step. -/
theorem blockStep_withAgents (s : State) (st : Status) (p : List HostOp) (ts : List Turn) (rs : List Word) (n : Nat) :
    blockStep (s.withAgents st p ts rs n) = mapNext (fun t => t.withAgents st p ts rs n) (blockStep s) := by
  cases hp : s.pending with
  | none => rw [blockStep_of_idle s hp]; exact blockStep_of_idle _ hp
  | some w =>
    cases hd : decode w with
    | illegal why => simp [blockStep, State.withAgents, hp, hd, mapNext]
    | command i =>
      rw [blockStep_of_command s w i hp hd, blockStep_of_command (s.withAgents st p ts rs n) w i hp hd, exec_withAgents]
      cases exec i s <;> rfl

/-- A run whose first step answers is the rest of the run from there. -/
theorem run_succ_of_step {M : Host.Core} {s t : M.State} (n : Nat) (h : M.step s = .next t) :
    M.run (n + 1) s = M.run n t := by
  rw [Host.Core.run, h]

/-- A run of two steps. -/
theorem run_two_of_steps {s t u : State} (h : step s = .next t) (h' : step t = .next u) :
    Host.Core.run Sys2Proof.core 2 s = .next u :=
  (run_succ_of_step (M := Sys2Proof.core) 1 h).trans (run_succ_of_step (M := Sys2Proof.core) 0 h')

/-- Settles O51: host first, the block's step runs from a state with other status bits and agents; block first, the host's
access leaves its generators and results. -/
theorem hostAccessCommutesWithBlockStep : Obligations.HostAccessCommutesWithBlockStep := by
  intro s t w op rest hp hprog hop hb
  have hwf : ∀ op', s.program.head? = some op' → op'.wf = true := by
    rw [hprog]
    rintro _ ⟨⟩
    exact hop
  have hblock : ∀ st p ts rs n, blockStep (s.withAgents st p ts rs n) = .next (t.withAgents st p ts rs n) := by
    intros
    rw [blockStep_withAgents, hb]
    rfl
  obtain ⟨u, hu⟩ := exists_hostStep_eq_next (s := { s with turns := [.block] }) hwf
  have hframe : u = s.withAgents u.status u.program [.block] u.reads u.fresh :=
    hostStep_eq_of_busy hu ((State.busy_eq_true_iff _).2 ⟨w, hp⟩)
  obtain ⟨v, hv⟩ := exists_hostStep_eq_next (s := t.withAgents s.status s.program [] s.reads s.fresh) hwf
  obtain ⟨hg, hc, h0, h1, -⟩ := hostStep_frame hv
  have hhost : step { s with turns := [.host, .block] } = .next u := (step_of_host_turn (.inl rfl)).trans hu
  have hhostBlock : step u = .next (t.withAgents u.status u.program [] u.reads u.fresh) := by
    rw [hframe]
    exact (step_of_block_turn (.inl rfl)).trans (hblock _ _ _ _ _)
  have hblockFirst : step { s with turns := [.block, .host] }
      = .next (t.withAgents s.status s.program [.host] s.reads s.fresh) :=
    (step_of_block_turn (.inl rfl)).trans (hblock _ _ _ _ _)
  have hblockHost : step (t.withAgents s.status s.program [.host] s.reads s.fresh) = .next v :=
    (step_of_host_turn (.inl rfl)).trans hv
  refine ⟨_, v, run_two_of_steps hhost hhostBlock, run_two_of_steps hblockFirst hblockHost, ?_⟩
  exact List.forall_mem_cons.2 ⟨⟨rfl, rfl, rfl, rfl⟩, List.forall_mem_singleton.2 ⟨hg, hc, h0, h1⟩⟩

/-! ### A pending command completes (20_memory.md rule R46) -/

/-- The legal words are those that decode to a command (30_encoding.md rule R60). -/
theorem legal_eq_true_iff (w : Word) : legal w = true ↔ ∃ i, decode w = .command i := by
  unfold legal
  cases decode w <;> simp [Decoded.instr?]

/-- The block's step leaves none pending (20_memory.md rule R45). -/
theorem pending_of_blockStep {s t : State} (h : blockStep s = .next t) : t.pending = none := by
  obtain ⟨hp, rfl⟩ | ⟨_, _, u, -, -, -, rfl⟩ := blockStep_next_cases s t h
  · exact hp
  · rfl

/-- In a legal state the block's step answers. -/
theorem exists_blockStep_eq_next {s : State} (hodd : s.OddIncs) (hcmd : s.CmdOk) : ∃ t, blockStep s = .next t := by
  cases hp : s.pending with
  | none => exact ⟨s, blockStep_of_idle s hp⟩
  | some w =>
    obtain ⟨-, hlegal⟩ := hcmd.2 w hp
    obtain ⟨i, hd⟩ := (legal_eq_true_iff w).1 hlegal
    obtain ⟨t, ht⟩ := exists_exec_eq_next i s hodd
    exact ⟨t.complete, by rw [blockStep_of_command s w i hp hd, ht]; rfl⟩

/-- The host's statements and the turns to come, after any turn: at most one statement less, and the same turns. -/
theorem takeTurn_agents {k : Turn} {s t : State} (h : takeTurn k s = .next t) :
    t.program ⊆ s.program ∧ t.turns = s.turns := by
  obtain ⟨-, hh⟩ | ⟨-, hb⟩ | ⟨-, rfl⟩ := takeTurn_next_cases k s t h
  · obtain ⟨-, -, -, -, hturns⟩ := hostStep_frame hh
    exact ⟨hostStep_program_subset hh, hturns⟩
  · obtain ⟨-, rfl⟩ | ⟨_, _, u, -, -, hu, rfl⟩ := blockStep_next_cases s t hb
    · exact ⟨List.Subset.refl _, rfl⟩
    · obtain ⟨-, -, -, -, -, -, -, hprogram, hturns, -⟩ := exec_frame hu
      exact ⟨hprogram ▸ List.Subset.refl _, hturns⟩
  · exact ⟨List.Subset.refl _, rfl⟩

/-- A step uses one turn up and adds no statement. -/
theorem step_agents {s t : State} (h : step s = .next t) : t.program ⊆ s.program ∧ t.turns = s.turns.tail := by
  rw [step_eq_takeTurn] at h
  exact takeTurn_agents h

/-- Every step keeps the host's contract. -/
theorem State.HostOk.step {s t : State} (hs : s.HostOk) (h : step s = .next t) : t.HostOk := by
  obtain ⟨hwf, hturns⟩ := hs
  obtain ⟨hprogram, htail⟩ := step_agents h
  exact ⟨fun op hop => hwf op (hprogram hop), fun hmem => hturns (List.mem_of_mem_tail (htail ▸ hmem))⟩

/-- A turn that is neither the host's nor the block's is a fixed one. -/
theorem turnNow_mem (s : State) (h : s.turnNow ≠ .host) (h' : s.turnNow ≠ .block) : s.turnNow ∈ s.turns := by
  unfold State.turnNow at h h' ⊢
  split at h
  · next hts =>
    unfold defaultTurn at h h'
    split at h <;> simp_all
  · next hts => simp [hts]

/-- From a legal state, with a host that keeps the contract, a step answers (60_exceptions.md rule R104). -/
theorem exists_step_eq_next {s : State} (hs : s.Inv) (hok : s.HostOk) : ∃ t, step s = .next t := by
  obtain ⟨hodd, hcmd, -⟩ := hs
  obtain ⟨hwf, hturns⟩ := hok
  rw [step_eq_takeTurn]
  cases hk : s.turnNow with
  | host =>
    exact exists_hostStep_eq_next (s := { s with turns := s.turns.tail }) fun op hop => hwf op (List.mem_of_head? hop)
  | block => exact exists_blockStep_eq_next (s := { s with turns := s.turns.tail }) hodd hcmd
  | reset => exact ⟨_, rfl⟩
  | hostInReset => exact absurd (hk ▸ turnNow_mem s (by simp [hk]) (by simp [hk])) hturns

/-- Settles O53: by induction on the fixed turns, each of which answers; where none is left, the default turn is the
block's. A reset among them would leave none pending as well, so that case needs no hypothesis. -/
theorem everyPendingCommandCompletes : Obligations.EveryPendingCommandCompletes := by
  rintro s w hinv hok - hp
  induction hts : s.turns generalizing s w with
  | nil =>
    obtain ⟨t, ht⟩ := exists_step_eq_next hinv hok
    refine ⟨1, t, by simp, run_succ_of_step 0 ht, ?_⟩
    rw [step_of_block_turn (.inr ⟨hts, rfl, by simp [hp]⟩)] at ht
    exact pending_of_blockStep ht
  | cons k ts ih =>
    obtain ⟨u, hu⟩ := exists_step_eq_next hinv hok
    have hts' : u.turns = ts := by rw [(step_agents hu).2, hts]; rfl
    cases hpu : u.pending with
    | none => exact ⟨1, u, by simp, run_succ_of_step 0 hu, hpu⟩
    | some w' =>
      obtain ⟨n, t, hn, hrun, ht⟩ := ih u w' (stepKeepsTheInvariant s u hinv hu) (hok.step hu) hpu hts'
      exact ⟨n + 1, t, by simpa using hn, (run_succ_of_step n hu).trans hrun, ht⟩

end Sys2Proof.Machine
end

section
/-! PROOFS. The decoder and the encoder of command words, field by field (30_encoding.md rules R54, R56, R60). -/

namespace Sys2Proof

/-- `OPCODE` of a command: its GROUP above its FUNC (rule R54). -/
def Instr.opcode (i : Instr) : BitVec 8 := i.groupFunc.1 ++ i.groupFunc.2

/-- A command's word is its opcode under reserved bits of 0. -/
theorem encode_eq_append_opcode (i : Instr) : encode i = (0 : BitVec 56) ++ i.opcode := rfl

/-- A word is its reserved bits above its opcode. -/
theorem fieldRsvd_append_fieldOpcode (w : Word) : fieldRsvd w ++ fieldOpcode w = w :=
  BitVec.extractLsb'_append_extractLsb'

@[simp] theorem fieldRsvd_append (r : BitVec 56) (op : BitVec 8) : fieldRsvd (r ++ op) = r :=
  BitVec.extractLsb'_append_eq_left

@[simp] theorem fieldOpcode_append (r : BitVec 56) (op : BitVec 8) : fieldOpcode (r ++ op) = op :=
  BitVec.extractLsb'_append_eq_right

/-- An opcode zero-extended to a word, by its fields. -/
theorem setWidth_eq_append (op : BitVec 8) : op.setWidth 64 = (0 : BitVec 56) ++ op := by
  simpa using BitVec.setWidth_eq_append (x := op) (w := 64) (by decide)

/-- The command words are those with the fields of a command. -/
theorem eq_encode_iff (w : Word) (i : Instr) : w = encode i ↔ fieldRsvd w = 0 ∧ fieldOpcode w = i.opcode := by
  rw [encode_eq_append_opcode]
  constructor
  · rintro rfl
    simp
  · rintro ⟨hrsvd, hop⟩
    rw [← fieldRsvd_append_fieldOpcode w, hrsvd, hop]

/-- The opcode map gives a number its command exactly when the number is that command's opcode. -/
theorem instrOfOpcode_eq_some_iff (n : Nat) (i : Instr) : instrOfOpcode n = some i ↔ n = i.opcode.toNat := by
  constructor
  · intro h
    unfold instrOfOpcode at h
    split at h <;> cases h <;> rfl
  · rintro rfl
    cases i <;> rfl

/-- Decoding gives a command exactly for its word. -/
theorem decode_eq_command_iff (w : Word) (i : Instr) : decode w = .command i ↔ w = encode i := by
  rw [eq_encode_iff, ← BitVec.toNat_inj (x := fieldOpcode w), ← instrOfOpcode_eq_some_iff, decode]
  split
  · next hrsvd => cases instrOfOpcode (fieldOpcode w).toNat <;> simp [hrsvd]
  · next hrsvd => exact iff_of_false (by simp) fun h => hrsvd h.1

/-- A word with a reserved bit set is `ILLEGAL` (rule R57). -/
theorem decode_of_fieldRsvd_ne_zero {w : Word} (h : fieldRsvd w ≠ 0) : decode w = .illegal .reservedBits :=
  if_neg h

/-- A word without reserved bits whose opcode is no command's is `ILLEGAL` (rule R58). -/
theorem decode_of_unassigned {w : Word} (hrsvd : fieldRsvd w = 0) (hop : ∀ i : Instr, fieldOpcode w ≠ i.opcode) :
    decode w = .illegal .unassignedOpcode := by
  have hnone : instrOfOpcode (fieldOpcode w).toNat = none := by
    refine Option.eq_none_iff_forall_not_mem.2 fun i hi => hop i ?_
    exact BitVec.eq_of_toNat_eq ((instrOfOpcode_eq_some_iff _ i).1 hi)
  rw [decode, if_pos hrsvd, hnone]

/-- The opcodes of the commands are the fourteen of the map (rule R56). -/
theorem exists_opcode_eq_iff (op : BitVec 8) : (∃ i : Instr, op = i.opcode) ↔
    op ∈ ([0x01, 0x02, 0x03, 0x04, 0x05, 0x06, 0x11, 0x12, 0x13, 0x14, 0x15, 0x16, 0x17, 0x18] : List (BitVec 8)) := by
  constructor
  · rintro ⟨i, rfl⟩
    cases i <;> decide
  · intro h
    have hsome : (instrOfOpcode op.toNat).isSome = true := by fin_cases h <;> rfl
    obtain ⟨i, hi⟩ := Option.isSome_iff_exists.1 hsome
    exact ⟨i, BitVec.eq_of_toNat_eq ((instrOfOpcode_eq_some_iff _ i).1 hi)⟩

end Sys2Proof
end

section
/-! PROOFS. The statements of 30_encoding.md: the text of a transaction, the command words, the assembly, and what the
commands read. -/

namespace Sys2Proof.Machine

/-! ### The text of a transaction (30_encoding.md rule R65) -/

/-- A digit is read as the number it writes. -/
theorem hexValue_hexDigit {n : Nat} (h : n < 16) : hexValue (hexDigit n) = some n := by
  have hall : ∀ d < 16, hexValue (hexDigit d) = some d := by decide
  exact hall n h

@[simp] theorem length_hexDigits (k n : Nat) : (hexDigits k n).length = k := by
  induction k generalizing n with
  | zero => rfl
  | succ k ih => simp [hexDigits, ih]

@[simp] theorem length_hexText (k n : Nat) : (hexText k n).length = k + 2 := by
  simp [hexText]

/-- Digits are read from the left, what is read so far carried along. -/
theorem digitsValue_append (base : Nat) (xs ys : List Char) (acc : Nat) :
    digitsValue base (xs ++ ys) acc = (digitsValue base xs acc).bind (digitsValue base ys) := by
  induction xs generalizing acc with
  | nil => rfl
  | cons ch xs ih =>
    simp only [List.cons_append, digitsValue]
    split
    · split
      · exact ih _
      · rfl
    · rfl

/-- A digit of the base is put after what is read so far. -/
theorem digitsValue_hexDigit {d : Nat} (h : d < 16) (acc : Nat) :
    digitsValue 16 [hexDigit d] acc = some (acc * 16 + d) := by
  simp [digitsValue, hexValue_hexDigit h, h]

/-- `k` digits are read as the number they write, after what is read so far. -/
theorem digitsValue_hexDigits (k n acc : Nat) (h : n < 16 ^ k) :
    digitsValue 16 (hexDigits k n) acc = some (acc * 16 ^ k + n) := by
  induction k generalizing n with
  | zero =>
    obtain rfl : n = 0 := by simpa using h
    simp [hexDigits, digitsValue]
  | succ k ih =>
    have hdiv : n / 16 < 16 ^ k := Nat.div_lt_of_lt_mul (by rwa [Nat.pow_succ'] at h)
    rw [hexDigits, digitsValue_append, ih _ hdiv, Option.bind_some, digitsValue_hexDigit (Nat.mod_lt n (by decide)),
      Nat.add_mul, Nat.add_assoc, Nat.div_add_mod', Nat.mul_assoc, ← Nat.pow_succ]

/-- The text of a number that `k` digits can write reads back as the number. -/
theorem readHexText_hexText {k n : Nat} (h : n < 16 ^ k) : readHexText k (hexText k n) = some n := by
  simp [hexText, readHexText, digitsValue_hexDigits k n 0 h]

/-- A text of `R` and an offset is a read of that offset: it is shorter than a poll's. -/
theorem readTransaction_R {addr : List Char} {off : Nat} (hlen : addr.length = 4)
    (haddr : readHexText 2 addr = some off) : readTransaction ('R' :: ' ' :: addr) = some (.r off) := by
  have hpoll : 'R' :: ' ' :: addr ≠ "R 0x08 (poll)".toList := by
    intro h
    injection h with _ h
    injection h with _ h
    subst h
    exact absurd hlen (by decide)
  unfold readTransaction
  simp only [if_neg hpoll, haddr, Option.map_some]

/-- A text that starts with `W` is a write, if the four characters after it are an offset and those after the next blank a
value. -/
theorem readTransaction_W {addr value : List Char} {off v : Nat} (hlen : addr.length = 4)
    (haddr : readHexText 2 addr = some off) (hvalue : readHexText 16 value = some v) :
    readTransaction ('W' :: ' ' :: (addr ++ ' ' :: value)) = some (.w off (BitVec.ofNat 64 v)) := by
  have htake : (addr ++ ' ' :: value).take 4 = addr := by simp [← hlen]
  have hdrop : (addr ++ ' ' :: value).drop 5 = value := by simp [List.drop_append, hlen]
  have hblank : (addr ++ ' ' :: value)[4]? = some ' ' := by simp [hlen]
  have hpoll : 'W' :: ' ' :: (addr ++ ' ' :: value) ≠ "R 0x08 (poll)".toList := by
    intro h
    injection h with h
    exact absurd h (by decide)
  unfold readTransaction
  simp only [if_neg hpoll, htake, hdrop, hblank, haddr, hvalue]

/-- An offset of the window has two hexadecimal digits. -/
theorem offset_lt_of_accessWf {width off : Nat} (h : accessWf width off = true) : off < 16 ^ 2 := by
  obtain ⟨-, -, hle⟩ := (accessWf_iff width off).1 h
  omega

/-- Settles O4: by the kind of the transaction; the digits of an offset of the window and of a value read back. -/
theorem transactionTextReadsBack : Obligations.TransactionTextReadsBack := by
  intro t ht
  cases t with
  | w off v =>
    have hv : v.toNat < 16 ^ 16 := v.isLt.trans_eq (by norm_num)
    have hread := readTransaction_W (length_hexText 2 off) (readHexText_hexText (offset_lt_of_accessWf ht))
      (readHexText_hexText hv)
    rwa [BitVec.ofNat_toNat, BitVec.setWidth_eq] at hread
  | r off => exact readTransaction_R (length_hexText 2 off) (readHexText_hexText (offset_lt_of_accessWf ht))
  | rPoll => rfl

/-! ### Command words (30_encoding.md rules R54 to R60) -/

/-- A word is legal when its reserved bits are 0 and its opcode is a command's (rule R58). -/
theorem legal_iff_fields (w : Word) :
    legal w = true ↔ fieldRsvd w = 0 ∧ ∃ i : Instr, fieldOpcode w = i.opcode := by
  simp only [legal_eq_true_iff, decode_eq_command_iff, eq_encode_iff, exists_and_left]

/-- An opcode zero-extended to a word is legal when it is a command's. -/
theorem legal_setWidth_iff (op : BitVec 8) : legal (op.setWidth 64) = true ↔ ∃ i : Instr, op = i.opcode := by
  simp [legal_iff_fields, setWidth_eq_append]

/-- Settles O2: the legal words by their fields, the unassigned opcodes as the rest of the list, and the illegal write as the
recording of an error. -/
theorem legalWordsAreTheFourteenOpcodes : Obligations.LegalWordsAreTheFourteenOpcodes := by
  refine ⟨fun w => ?_, fun op => ?_, fun s w hp hw => ?_⟩
  · rw [legal_iff_fields, exists_opcode_eq_iff]
    rfl
  · rw [← Bool.not_eq_true, legal_setWidth_iff, exists_opcode_eq_iff]
    simp only [List.mem_cons, List.not_mem_nil, or_false, BitVec.ofNat_eq_ofNat, ← BitVec.toNat_inj, BitVec.toNat_ofNat]
    omega
  · rw [hostWrite_cmd_of_illegal w s hp hw, State.recordError_eq, State.recordError_status]
    rfl

/-- Settles O3: decoding gives a command exactly for its word, and a set bit above the opcode is a reserved one. -/
theorem encodeGivesTheOnlyWordOfACommand : Obligations.EncodeGivesTheOnlyWordOfACommand := by
  refine ⟨fun i w => decode_eq_command_iff w i, fun w k hk hbit => decode_of_fieldRsvd_ne_zero fun hrsvd => ?_⟩
  have hlt : k < 64 := BitVec.lt_of_getLsbD hbit
  have hfield : (fieldRsvd w).getLsbD (k - 8) = true := by
    rw [fieldRsvd, BitVec.getLsbD_extractLsb', Nat.add_sub_cancel' hk, hbit, decide_eq_true (by omega : k - 8 < 56)]
    rfl
  simp [hrsvd] at hfield

/-- Settles O1: each row by computation, and every other opcode is no command's. -/
theorem commandWordsDecodeAsTabled : Obligations.CommandWordsDecodeAsTabled := by
  refine ⟨by decide, fun op hop => ?_⟩
  rw [setWidth_eq_append]
  refine decode_of_unassigned (fieldRsvd_append 0 op) fun i hi => hop ?_
  rw [fieldOpcode_append] at hi
  exact (exists_opcode_eq_iff op).1 ⟨i, hi⟩

/-! ### The assembly (30_encoding.md rules R63 to R65) -/

/-- An access to a register by its name is defined. -/
theorem accessWf_offset (r : Reg) : accessWf 64 r.offset = true :=
  (accessWf_iff 64 _).2 ⟨rfl, offset_aligned_in_window r⟩

/-- Every statement expands into defined accesses: writes and reads of named registers, and polls. -/
theorem wf_of_mem_expandStmt (st : Stmt) : ∀ op ∈ expandStmt st, op.wf = true := by
  have hwr : ∀ r v, (wr r v).wf = true := fun r _ => accessWf_offset r
  have hrd : ∀ r, (rd r).wf = true := accessWf_offset
  have hpoll : HostOp.poll.wf = true := rfl
  cases st <;> simp [expandStmt, issue, hwr, hrd, hpoll]

/-- So every access of an assembled program is defined. -/
theorem wf_of_mem_assemble {p : List Stmt} {op : HostOp} (h : op ∈ assemble p) : op.wf = true := by
  obtain ⟨st, -, hop⟩ := List.mem_flatMap.1 h
  exact wf_of_mem_expandStmt st op hop

/-- The access a transaction is has that transaction. -/
theorem transactionOf_hostOpOf (t : Transaction) : transactionOf (hostOpOf t) = some t := by
  cases t <;> rfl

/-- The access a transaction is, is defined when the transaction is well-formed. -/
theorem wf_hostOpOf (t : Transaction) : (hostOpOf t).wf = t.wf := by
  cases t <;> rfl

/-- Every defined access is some transaction's. -/
theorem exists_hostOpOf_eq {op : HostOp} (h : op.wf = true) : ∃ t, hostOpOf t = op := by
  cases op with
  | write width off v =>
    obtain ⟨rfl, -⟩ := (accessWf_iff width off).1 h
    exact ⟨.w off v, rfl⟩
  | read width off =>
    obtain ⟨rfl, -⟩ := (accessWf_iff width off).1 h
    exact ⟨.r off, rfl⟩
  | poll => exact ⟨.rPoll, rfl⟩

/-- Settles O5: a program's accesses are defined, so they are those of a list of transactions. -/
theorem assembledProgramsHaveTransactions : Obligations.AssembledProgramsHaveTransactions := by
  intro p
  have hmem : assemble p ∈ Set.range (List.map hostOpOf) := by
    rw [Set.range_list_map]
    exact fun op hop => exists_hostOpOf_eq (wf_of_mem_assemble hop)
  obtain ⟨ts, hts⟩ := hmem
  refine ⟨fun op => wf_of_mem_assemble, ts, ?_, hts, fun t ht => ?_⟩
  · rw [← hts, List.map_map]
    exact List.map_congr_left fun t _ => transactionOf_hostOpOf t
  · rw [← wf_hostOpOf]
    exact wf_of_mem_assemble (hts ▸ List.mem_map_of_mem ht)

/-- Settles O6: the offsets and the command words of each expansion, by computation. -/
theorem pseudoInstructionsExpandAsTabled : Obligations.PseudoInstructionsExpandAsTabled := by
  intro a b c d
  exact ⟨rfl, rfl, rfl, rfl, rfl, rfl, rfl, rfl, rfl, rfl, rfl, rfl, rfl, rfl, rfl⟩

/-! ### What the commands read (30_encoding.md rules R55, R61) -/

/-- A sampler's outcome follows an update that its write-back commutes with. -/
theorem finishSample_eq_mapNext {α : Type} (o : Option α) {write write' : α → State} {f : State → State}
    (h : ∀ a, write' a = f (write a)) : finishSample o write' = mapNext f (finishSample o write) := by
  cases o with
  | none => rfl
  | some a => exact congrArg Host.Outcome.next (h a)

/-- A command of group 0 does not read the composite generator. -/
theorem exec_withC_of_group0 {i : Instr} (s : State) (c : Comp) (hi : i.groupFunc.1 = 0) :
    exec i { s with c := c } = mapNext (fun t => { t with c := c }) (exec i s) := by
  cases i
  case g32Bounded => exact finishSample_eq_mapNext _ fun _ => rfl
  case g32Seed | g32Next | g32Jump | g32JumpBack | g32Load => rfl
  all_goals cases hi

/-- A command of group 1 does not read the base generator. -/
theorem exec_withG_of_group1 {i : Instr} (s : State) (g : Gen) (hi : i.groupFunc.1 = 1) :
    exec i { s with g := g } = mapNext (fun t => { t with g := g }) (exec i s) := by
  cases i
  case c64Bounded => exact finishSample_eq_mapNext _ fun _ => rfl
  case c64Seed | c64Next | c64Jump | c64JumpBack | c64Load | c64Step128 | c64Hq64 => rfl
  all_goals cases hi

/-- Settles O39: what a command reads by its meaning, what it writes by the registers its answer can change. -/
theorem groupsActOnTheirOwnGenerator : Obligations.GroupsActOnTheirOwnGenerator :=
  ⟨fun i s c hi => ⟨exec_withC_of_group0 s c hi, fun t h => (exec_writes i s t h).c_of_group0 hi⟩,
    fun i s g hi => ⟨exec_withG_of_group1 s g hi, fun t h => (exec_writes i s t h).g_of_group1 hi⟩⟩

/-- The bound of `G32_BOUNDED` is `ARG0[31:0]`. -/
theorem opBound32_withArgs {s : State} {a0 : Word} (h : a0.extractLsb' 0 32 = s.arg0.extractLsb' 0 32)
    (a1 a2 a3 : Word) : (s.withArgs a0 a1 a2 a3).opBound32 = s.opBound32 := by
  simpa only [State.opBound32, State.withArgs, BitVec.setWidth_eq_extractLsb' (show 32 ≤ 64 by decide)] using h

/-- Settles O41: a command that reads whole operand registers runs on the same words, and `G32_BOUNDED` on the same bound. -/
theorem commandsReadOnlyTheirOperands : Obligations.CommandsReadOnlyTheirOperands := by
  intro i s a0 a1 a2 a3 h
  cases i
  case g32Bounded =>
    change finishSample (bounded32 s.g.state s.g.inc (s.withArgs a0 a1 a2 a3).opBound32) _ = _
    rw [opBound32_withArgs h]
    exact finishSample_eq_mapNext _ fun _ => rfl
  case c64Bounded =>
    obtain rfl := h
    exact finishSample_eq_mapNext _ fun _ => rfl
  case g32Next | c64Next | c64Step128 | c64Hq64 => rfl
  case g32Jump | g32JumpBack | g32Load | c64Jump | c64JumpBack => obtain rfl := h; rfl
  case g32Seed | c64Load => obtain ⟨rfl, rfl⟩ := h; rfl
  case c64Seed => obtain ⟨rfl, rfl, rfl, rfl⟩ := h; rfl

end Sys2Proof.Machine
end

section
/-! PROOFS. The statements of 40_base_generator.md on the LCG: its step, its period, and its jumps. -/

namespace Sys2Proof.Machine

/-! ### The step and its period (40_base_generator.md rules R66, R69) -/

/-- Settles O9: the word product and sum are those of numbers modulo 2^64. -/
theorem lcgStepIsMultiplyAddModulo : Obligations.LcgStepIsMultiplyAddModulo := by
  intro s inc
  rw [lcg64, BitVec.toNat_add, BitVec.toNat_mul, Nat.mod_add_mod, Nat.mul_comm]
  rfl

/-- Settles O11: every state is reached within 2^64 steps, and 2^64 steps are a multiple of the period. -/
theorem lcgHasFullPeriod : Obligations.LcgHasFullPeriod := by
  refine ⟨exists_lcgSteps_eq, fun inc hinc s n hn => (lcgSteps_eq_self_iff inc hinc n s).2 (hn ▸ dvd_rfl), ?_⟩
  rintro st ⟨hg, hhi, hlo⟩ x hx t
  have hodd : x.odd := by
    obtain rfl | rfl | rfl : x = st.g ∨ x = st.c.hi ∨ x = st.c.lo := by simpa using hx
    exacts [hg, hhi, hlo]
  exact exists_lcgSteps_eq x.inc hodd x.state t

/-- With an odd increment only the number of steps modulo 2^64 matters. -/
theorem lcgSteps_mod (inc : Word) (hinc : inc.getLsbD 0 = true) (n : Nat) (s : Word) :
    lcgSteps inc (n % 2 ^ 64) s = lcgSteps inc n s := by
  have hround := (lcgSteps_eq_self_iff inc hinc (2 ^ 64 * (n / 2 ^ 64)) s).2 (dvd_mul_right _ _)
  conv_rhs => rw [← Nat.div_add_mod n (2 ^ 64), lcgSteps_add, hround]

/-! ### The jump (40_base_generator.md rules R70, R71) -/

/-- The first `2 * q` powers of a word, taken in pairs. -/
theorem geomSum_two_mul (x : Word) (q : Nat) :
    ∑ i ∈ Finset.range (2 * q), x ^ i = (x + 1) * ∑ i ∈ Finset.range q, (x * x) ^ i := by
  induction q with
  | zero => simp
  | succ q ih =>
    rw [Nat.mul_succ, Finset.sum_range_succ, Finset.sum_range_succ, Finset.sum_range_succ, ih]
    ring

/-- What the loop of rule R71 ends with: `delta` compositions of the map `x ↦ cm * x + cp`, applied after
`x ↦ am * x + ap`. A round halves `delta` and composes the map with itself. -/
theorem jumpLoop_eq (n : Nat) (delta cm cp am ap : Word) (h : delta.toNat < 2 ^ n) :
    jumpLoop n delta cm cp am ap =
      (am * cm ^ delta.toNat, ap * cm ^ delta.toNat + cp * ∑ i ∈ Finset.range delta.toNat, cm ^ i) := by
  induction n generalizing delta cm cp am ap with
  | zero =>
    have hzero : delta.toNat = 0 := by omega
    simp [jumpLoop, hzero]
  | succ n ih =>
    have hhalf : (delta >>> 1).toNat = delta.toNat / 2 := by simp [Nat.shiftRight_eq_div_pow]
    rcases eq_or_ne delta 0 with rfl | hne
    · simp [jumpLoop]
    · have hlt : (delta >>> 1).toNat < 2 ^ n := by omega
      rw [jumpLoop, if_neg hne]
      split
      · next hbit =>
        have hodd : delta.toNat = 2 * (delta >>> 1).toNat + 1 := by
          have := (getLsbD_zero_eq_true_iff delta).1 hbit
          omega
        rw [ih _ _ _ _ _ hlt, hodd, Finset.sum_range_succ, geomSum_two_mul]
        congr 1 <;> ring
      · next hbit =>
        have heven : delta.toNat = 2 * (delta >>> 1).toNat := by
          have := mt (getLsbD_zero_eq_true_iff delta).2 hbit
          omega
        rw [ih _ _ _ _ _ hlt, heven, geomSum_two_mul]
        congr 1 <;> ring

/-- The jump is `delta` steps. -/
theorem jump64_eq_lcgSteps (s delta inc : Word) : jump64 s delta inc = lcgSteps inc delta.toNat s := by
  rw [jump64, jumpLoop_eq 64 delta _ _ _ _ delta.isLt, lcgSteps_eq_geomSum]
  simp

/-- Settles O12: the loop's end gives the steps' closed form, whatever the number of rounds beyond 64. -/
theorem jumpIsDeltaSteps : Obligations.JumpIsDeltaSteps := by
  intro s delta inc
  have hsteps := jump64_eq_lcgSteps s delta inc
  refine ⟨hsteps, ?_, fun n hn => ?_⟩
  · rw [hsteps, lcgSteps_eq_geomSum]
    rfl
  · rw [jumpLoop_eq 64 delta _ _ _ _ delta.isLt,
      jumpLoop_eq n delta _ _ _ _ (delta.isLt.trans_le (Nat.pow_le_pow_right two_pos hn))]

/-! ### The jump laws (40_base_generator.md rules R72, R82) -/

section jumps

variable (s a b inc : Word)

/-- Jumping 0 changes nothing, whatever the increment. -/
theorem jump64_zero : jump64 s 0 inc = s := jump64_eq_lcgSteps s 0 inc

variable (hinc : inc.getLsbD 0 = true)
include hinc

/-- Jumps add up modulo 2^64. -/
theorem jump64_jump64 : jump64 (jump64 s a inc) b inc = jump64 s (a + b) inc := by
  simp only [jump64_eq_lcgSteps, BitVec.toNat_add]
  rw [lcgSteps_mod inc hinc, lcgSteps_add]

/-- A jump back undoes the jump. -/
theorem jumpback64_jump64 : jumpback64 (jump64 s a inc) a inc = s := by
  rw [jumpback64, jump64_jump64 s _ _ inc hinc, add_neg_cancel, jump64_zero]

/-- A jump undoes the jump back. -/
theorem jump64_jumpback64 : jump64 (jumpback64 s a inc) a inc = s := by
  rw [jumpback64, jump64_jump64 s _ _ inc hinc, neg_add_cancel, jump64_zero]

/-- The state a jump comes from is the one a jump back leads to. -/
theorem jump64_eq_iff (t : Word) : jump64 t a inc = s ↔ t = jumpback64 s a inc := by
  constructor
  · rintro rfl
    exact (jumpback64_jump64 t a inc hinc).symm
  · rintro rfl
    exact jump64_jumpback64 s a inc hinc

end jumps

/-- Settles O13: jumps add up, from which the laws on jumps back follow; 2^63 twice adds up to 0. -/
theorem jumpLaws : Obligations.JumpLaws := by
  intro s a b inc hinc
  refine ⟨jump64_jump64 s a b inc hinc, jump64_zero s inc, ?_, jump64_eq_iff s a inc hinc,
    jumpback64_jump64 s a inc hinc, jump64_eq_lcgSteps s a inc⟩
  rw [jump64_jump64 s _ _ inc hinc]
  exact jump64_zero s inc

end Sys2Proof.Machine
end

section
/-! PROOFS. The statements of 40_base_generator.md on the output permutation, the threshold and the sampler over any
draw. -/

namespace Sys2Proof.Machine

/-! ### The output permutation (40_base_generator.md rules R67, R83) -/

/-- Bits 58:27 of `old ^ (old >> 18)`: what `xshrr` rotates (rule R67). -/
def xshrrField (old : Word) : Word32 := (old ^^^ (old >>> 18)).extractLsb' 27 32

/-- The source's formula for a rotation is the rotation, for every amount it is used with. -/
theorem rotr32_eq_rotateRight (x r : Word32) (hr : r.toNat < 32) : rotr32 x r = x.rotateRight r.toNat := by
  rw [rotr32, BitVec.rotateRight_def, Nat.mod_eq_of_lt hr]
  rcases Nat.eq_zero_or_pos r.toNat with hzero | hpos
  · obtain rfl : r = 0 := BitVec.eq_of_toNat_eq hzero
    simp
  · have hleft : ((32 - r) &&& 31).toNat = 32 - r.toNat := by
      have hsub : (32 - r).toNat = 32 - r.toNat := by bv_omega
      rw [BitVec.toNat_and, hsub]
      exact (Nat.and_two_pow_sub_one_eq_mod _ 5).trans (Nat.mod_eq_of_lt (by omega))
    rw [BitVec.shiftLeft_eq', BitVec.ushiftRight_eq', hleft]

/-- The five top bits are the word shifted down by 59. -/
theorem toNat_topFive (old : Word) : (old.extractLsb' 59 5).toNat = (old >>> 59).toNat := by
  have := old.isLt
  simp only [BitVec.extractLsb'_toNat, BitVec.toNat_ushiftRight, Nat.shiftRight_eq_div_pow]
  omega

/-- The permutation rotates the field by the top five bits. -/
theorem xshrr_eq_rotateRight (old : Word) : xshrr old = (xshrrField old).rotateRight (old >>> 59).toNat := by
  have hfield : (((old >>> 18) ^^^ old) >>> 27).setWidth 32 = xshrrField old := by
    rw [xshrrField, BitVec.xor_comm]
    ext i hi
    simp
  have hamount : ((old >>> 59).setWidth 32).toNat = (old >>> 59).toNat := by
    have := old.isLt
    simp only [BitVec.toNat_setWidth, BitVec.toNat_ushiftRight, Nat.shiftRight_eq_div_pow]
    omega
  have hlt : (old >>> 59).toNat < 32 := toNat_topFive old ▸ (old.extractLsb' 59 5).isLt
  rw [xshrr, hfield, rotr32_eq_rotateRight _ _ (hamount ▸ hlt), hamount]

/-- Settles O10: the model's field and amount are the rule's, and a rotation by 0 changes nothing. -/
theorem xshrrRotatesBits58To27 : Obligations.XshrrRotatesBits58To27 := by
  intro old
  have hxshrr := xshrr_eq_rotateRight old
  rw [← toNat_topFive] at hxshrr
  refine ⟨hxshrr, fun hzero => ?_⟩
  rw [hxshrr, hzero]
  simp [BitVec.rotateRight_def, xshrrField]

/-- A rotation loses no bit. -/
theorem rotateRight_injective {w : Nat} (r : Nat) : Function.Injective fun x : BitVec w => x.rotateRight r := by
  intro x y hxy
  ext i hi
  have hr : r % w < w := Nat.mod_lt r (by omega)
  have hbit (j : Nat) (hj : j < w) : (x.rotateRight r)[j] = (y.rotateRight r)[j] := by
    rw [show x.rotateRight r = y.rotateRight r from hxy]
  simp only [BitVec.getElem_rotateRight] at hbit
  rcases Nat.lt_or_ge i (r % w) with hlow | hhigh
  · simpa using hbit (i + (w - r % w)) (by omega)
  · have hlt : i - r % w < w - r % w := by omega
    simpa [hlt, Nat.add_sub_cancel' hhigh] using hbit (i - r % w) (by omega)

/-- A word is determined by its xor with itself shifted down. -/
theorem xorShift_injective {w k : Nat} (hk : 0 < k) : Function.Injective fun x : BitVec w => x ^^^ (x >>> k) := by
  intro x y hxy
  have hdiff : x ^^^ y = (x ^^^ y) >>> k := by
    have hxor : (x ^^^ (x >>> k)) ^^^ (y ^^^ (y >>> k)) = 0#w := BitVec.xor_eq_zero_iff.2 hxy
    rw [BitVec.ushiftRight_xor_distrib, ← BitVec.xor_eq_zero_iff, ← hxor]
    ac_rfl
  have hzero : (x ^^^ y).toNat = 0 := by
    have hdiv : (x ^^^ y).toNat = (x ^^^ y).toNat / 2 ^ k := by
      conv_lhs => rw [hdiff, BitVec.toNat_ushiftRight, Nat.shiftRight_eq_div_pow]
    by_contra hpos
    exact (Nat.div_lt_self (Nat.pos_of_ne_zero hpos) (Nat.one_lt_two_pow hk.ne')).ne' hdiv
  exact BitVec.xor_eq_zero_iff.1 (BitVec.eq_of_toNat_eq hzero)

/-- What `xshrr` leaves out of the word it mixes: the rotation's amount and the bits below the field. -/
def xshrrRest (old : Word) : Word32 :=
  old.extractLsb' 59 5 ++ (old ^^^ (old >>> 18)).extractLsb' 0 27

/-- The mixed word, put together from the rotation's amount, the field and the bits below. -/
theorem xorShift_eq_append (old : Word) : old ^^^ (old >>> 18) =
    old.extractLsb' 59 5 ++ (xshrrField old ++ (old ^^^ (old >>> 18)).extractLsb' 0 27) := by
  have htop : old.extractLsb' 59 5 = (old ^^^ (old >>> 18)).extractLsb' 59 5 := by
    ext i hi
    simp [BitVec.getLsbD_of_ge old (18 + (59 + i)) (by omega)]
  have hbelow : (old ^^^ (old >>> 18)).extractLsb' 27 32 ++ (old ^^^ (old >>> 18)).extractLsb' 0 27 =
      (old ^^^ (old >>> 18)).extractLsb' 0 59 := BitVec.extractLsb'_append_extractLsb'_eq_extractLsb' rfl
  rw [htop, xshrrField, hbelow]
  exact (BitVec.extractLsb'_append_extractLsb' (w := 5) (len := 59)).symm

/-- The output and what it leaves out determine the state. -/
theorem xshrr_xshrrRest_injective : Function.Injective fun s : Word => (xshrr s, xshrrRest s) := by
  intro s t hst
  obtain ⟨hout, hrest⟩ := Prod.mk.inj hst
  have htop : s.extractLsb' 59 5 = t.extractLsb' 59 5 := by
    have := congrArg (BitVec.extractLsb' 27 5) hrest
    rwa [xshrrRest, xshrrRest, BitVec.extractLsb'_append_eq_left, BitVec.extractLsb'_append_eq_left] at this
  have hlow : (s ^^^ (s >>> 18)).extractLsb' 0 27 = (t ^^^ (t >>> 18)).extractLsb' 0 27 := by
    rw [xshrrRest, xshrrRest, htop] at hrest
    exact (BitVec.append_right_inj _).1 hrest
  have hfield : xshrrField s = xshrrField t := by
    rw [xshrr_eq_rotateRight, xshrr_eq_rotateRight, ← toNat_topFive, ← toNat_topFive, htop] at hout
    exact rotateRight_injective _ hout
  refine xorShift_injective (k := 18) (by decide) ?_
  change s ^^^ (s >>> 18) = t ^^^ (t >>> 18)
  rw [xorShift_eq_append s, xorShift_eq_append t, htop, hfield, hlow]

/-- There are `2 ^ w` words of width `w`. -/
theorem natCard_bitVec (w : Nat) : Nat.card (BitVec w) = 2 ^ w := by
  rw [Nat.card_congr BitVec.equivFin.toEquiv, Nat.card_fin]

/-- The output and what it leaves out take every pair of words once. -/
theorem xshrr_xshrrRest_bijective : Function.Bijective fun s : Word => (xshrr s, xshrrRest s) := by
  refine xshrr_xshrrRest_injective.bijective_of_nat_card_le ?_
  rw [Nat.card_prod, natCard_bitVec, natCard_bitVec, ← pow_add]

/-! ### The threshold (40_base_generator.md rules R73, R84) -/

/-- The source's form of the threshold is the rule's, on numbers. -/
theorem threshold_toNat {n : Nat} (b : BitVec n) (hb : b ≠ 0) : (threshold b).toNat = thresholdNat n b.toNat := by
  have hpos := BitVec.toNat_pos_of_ne_zero hb
  have hlt := b.isLt
  have hneg : (-b).toNat = 2 ^ n - b.toNat := by
    rw [BitVec.toNat_neg, Nat.mod_eq_of_lt (by omega)]
  rw [threshold, BitVec.toNat_umod, hneg, thresholdNat]

/-- The threshold is less than half of all draws. -/
theorem two_mul_thresholdNat_lt {n b : Nat} (hpos : 0 < b) (hlt : b < 2 ^ n) : 2 * thresholdNat n b < 2 ^ n := by
  have hle := Nat.mod_le (2 ^ n - b) b
  have hmod := Nat.mod_lt (2 ^ n - b) hpos
  rw [thresholdNat]
  omega

/-- A power of two leaves nothing over. -/
theorem thresholdNat_two_pow {n k : Nat} (hk : k ≤ n) : thresholdNat n (2 ^ k) = 0 :=
  Nat.mod_eq_zero_of_dvd (Nat.dvd_sub (pow_dvd_pow 2 hk) dvd_rfl)

/-- The bound divides the number of accepted draw values. -/
theorem dvd_accepted {n b : Nat} (hlt : b < 2 ^ n) : b ∣ 2 ^ n - thresholdNat n b := by
  have hdiv := Nat.div_add_mod (2 ^ n - b) b
  refine ⟨(2 ^ n - b) / b + 1, ?_⟩
  rw [thresholdNat, Nat.mul_succ]
  omega

/-- Over an interval of whole periods each residue comes up equally often. -/
theorem card_accepted_residue {n b r : Nat} (hlt : b < 2 ^ n) (hr : r < b) :
    ((Finset.Ico (thresholdNat n b) (2 ^ n)).filter (· % b = r)).card = (2 ^ n - thresholdNat n b) / b := by
  obtain ⟨q, hq⟩ := dvd_accepted hlt
  have hend : 2 ^ n = thresholdNat n b + b * q := by
    have := two_mul_thresholdNat_lt (Nat.zero_lt_of_lt hr) hlt
    omega
  have hperiodic : Function.Periodic (· % b = r) (b * q) := fun x => by simp
  have hcount := Nat.count_modEq_card (b * q) (Nat.zero_lt_of_lt hr) r
  simp only [Nat.ModEq, Nat.mod_eq_of_lt hr, Nat.mul_mod_right, Nat.not_lt_zero, if_false, Nat.add_zero] at hcount
  rw [hq, hend, Nat.filter_Ico_card_eq_of_periodic _ _ _ hperiodic, hcount]

/-- Settles O14: the threshold is a remainder modulo the bound, and on numbers the rule's. -/
theorem thresholdIsTwoToTheNMinusBoundModBound : Obligations.ThresholdIsTwoToTheNMinusBoundModBound := by
  intro n b hb
  have hnat := threshold_toNat b hb
  refine ⟨hnat, ?_, fun k hk => ?_⟩
  · exact BitVec.umod_lt _ ((BitVec.pos_iff_ne_zero b).2 hb)
  · refine BitVec.eq_of_toNat_eq ?_
    have hkn : k ≤ n := ((Nat.pow_lt_pow_iff_right one_lt_two).1 (hk ▸ b.isLt)).le
    rw [hnat, hk, thresholdNat_two_pow hkn]
    rfl

/-! ### The sampler over any draw (40_base_generator.md rule R74, 41_composite_generator.md rule R96) -/

/-- The first draw is the accepted one. -/
theorem acceptedAt_zero (draws : Nat → Nat) (thr : Nat) : AcceptedAt draws thr 0 ↔ thr ≤ draws 0 := by
  simp [AcceptedAt]

/-- A later draw is the accepted one when the first is rejected and, counted from the second, it is. -/
theorem acceptedAt_succ (draws : Nat → Nat) (thr k : Nat) :
    AcceptedAt draws thr (k + 1) ↔ draws 0 < thr ∧ AcceptedAt (fun j => draws (j + 1)) thr k := by
  rw [AcceptedAt, Nat.forall_lt_succ_left, and_assoc]
  rfl

section sampling

variable {n : Nat} {σ : Type} (draw : σ → BitVec n × σ)

/-- The state after `k` draws. -/
def afterDraws (k : Nat) (s : σ) : σ := (fun x => (draw x).2)^[k] s

/-- The draw numbered `k`, from 0. -/
def nthDraw (s : σ) (k : Nat) : BitVec n := (draw (afterDraws draw k s)).1

/-- The loop answers with the first accepted draw it is allowed. After a rejected draw it goes on from the next state,
whose draw `j` is draw `j + 1` of this one. -/
theorem rejectionLoop_eq_some_iff (thr bound : BitVec n) (limit : Nat) (s : σ) (v : BitVec n) (s' : σ) :
    rejectionLoop draw thr bound limit s = some (v, s') ↔
      ∃ k, k < limit ∧ AcceptedAt (fun j => (nthDraw draw s j).toNat) thr.toNat k ∧
        v = nthDraw draw s k % bound ∧ s' = afterDraws draw (k + 1) s := by
  induction limit generalizing s with
  | zero => simp [rejectionLoop]
  | succ limit ih =>
    by_cases h : thr ≤ (draw s).1
    · rw [rejectionLoop_accept draw thr bound limit s h]
      constructor
      · rintro ⟨⟩
        exact ⟨0, Nat.succ_pos _, (acceptedAt_zero _ _).2 h, rfl, rfl⟩
      · rintro ⟨k, -, hacc, rfl, rfl⟩
        cases k with
        | zero => rfl
        | succ k => exact absurd h (Nat.not_le.2 ((acceptedAt_succ _ _ _).1 hacc).1)
    · rw [rejectionLoop_reject draw thr bound limit s h, ih]
      constructor
      · rintro ⟨k, hk, hacc, hv, hs⟩
        exact ⟨k + 1, Nat.succ_lt_succ hk, (acceptedAt_succ _ _ _).2 ⟨Nat.not_le.1 h, hacc⟩, hv, hs⟩
      · rintro ⟨k, hk, hacc, hv, hs⟩
        cases k with
        | zero => exact absurd ((acceptedAt_zero _ _).1 hacc) h
        | succ k => exact ⟨k, Nat.lt_of_succ_lt_succ hk, ((acceptedAt_succ _ _ _).1 hacc).2, hv, hs⟩

/-- For a non-zero bound the sampler answers with the first accepted draw it is allowed. -/
theorem bounded_eq_some_iff (limit : Nat) (s : σ) {bound : BitVec n} (hb : bound ≠ 0) (v : BitVec n) (s' : σ) :
    bounded draw limit bound s = some (v, s') ↔
      ∃ k, k < limit ∧ AcceptedAt (fun j => (nthDraw draw s j).toNat) (threshold bound).toNat k ∧
        v = nthDraw draw s k % bound ∧ s' = afterDraws draw (k + 1) s := by
  rw [bounded_of_ne_zero draw bound limit s hb, rejectionLoop_eq_some_iff]

/-- An orbit in a finite type visits all its points within as many steps as the type has elements. -/
theorem exists_iterate_eq_of_finite [Finite σ] (f : σ → σ) (s : σ) (k : Nat) :
    ∃ j, j < Nat.card σ ∧ f^[j] s = f^[k] s := by
  induction k using Nat.strong_induction_on with
  | _ k ih =>
    rcases Nat.lt_or_ge k (Nat.card σ) with hk | hk
    · exact ⟨k, hk, rfl⟩
    · have hrepeat : ∃ i j, i < j ∧ j ≤ Nat.card σ ∧ f^[i] s = f^[j] s := by
        have hninj : ¬ Function.Injective fun i : Fin (Nat.card σ + 1) => f^[i] s := fun hinj => by
          simpa using Nat.card_le_card_of_injective _ hinj
        obtain ⟨i, j, hij, hne⟩ := Function.not_injective_iff.1 hninj
        rcases lt_or_gt_of_ne hne with hlt | hlt
        · exact ⟨i, j, hlt, by omega, hij⟩
        · exact ⟨j, i, hlt, by omega, hij.symm⟩
      obtain ⟨i, j, hlt, hj, hij⟩ := hrepeat
      obtain ⟨l, hl, heq⟩ := ih (k - j + i) (by omega)
      refine ⟨l, hl, heq.trans ?_⟩
      rw [Function.iterate_add_apply, hij, ← Function.iterate_add_apply, Nat.sub_add_cancel (hj.trans hk)]

/-- Given as many draws as there are states, the sampler gives up exactly when no draw would ever be accepted. -/
theorem bounded_eq_none_iff [Finite σ] {limit : Nat} (hlimit : Nat.card σ ≤ limit) (bound : BitVec n) (s : σ) :
    bounded draw limit bound s = none ↔
      bound ≠ 0 ∧ ∀ k, (nthDraw draw s k).toNat < thresholdNat n bound.toNat := by
  by_cases hb : bound = 0
  · simp [hb, bounded]
  · rw [bounded_of_ne_zero draw bound limit s hb, rejectionLoop_eq_none_iff]
    simp only [BitVec.le_def, threshold_toNat bound hb, Nat.not_le]
    refine ⟨fun h => ⟨hb, fun k => ?_⟩, fun h k _ => h.2 k⟩
    obtain ⟨j, hj, heq⟩ := exists_iterate_eq_of_finite (fun x => (draw x).2) s k
    rw [nthDraw, afterDraws, ← heq]
    exact h j (hj.trans_le hlimit)

end sampling

/-- Settles O15: the loop's inversion, with the draws it makes numbered from the start. -/
theorem samplerTakesTheFirstAcceptedDraw : Obligations.SamplerTakesTheFirstAcceptedDraw := by
  intro n σ draw limit s
  exact ⟨bounded_zero draw limit s, fun bound v s' hb => bounded_eq_some_iff draw limit s hb v s'⟩

/-- Settles O16: a draw with its top bit set is at least 2^31, and every threshold is below that. -/
theorem xshrrIsEquidistributedAndSamplingEnds : Obligations.XshrrIsEquidistributedAndSamplingEnds := by
  refine ⟨⟨xshrrRest, xshrr_xshrrRest_bijective⟩, fun b hb => ?_, fun s inc hinc => ⟨?_, fun bound => ?_⟩⟩
  · have := two_mul_thresholdNat_lt (BitVec.toNat_pos_of_ne_zero hb) b.isLt
    rw [threshold_toNat b hb]
    omega
  · obtain ⟨k, hk, hmsb⟩ := exists_xshrr_msb inc hinc s
    have := BitVec.msb_eq_true_iff_two_mul_ge.1 hmsb
    exact ⟨k, hk, by omega⟩
  · exact exists_bounded32_eq_some s inc bound hinc

end Sys2Proof.Machine
end

section
/-! PROOFS. The six commands of group 0, the base generator (40_base_generator.md section 2), and when a bounded command
stops. -/

namespace Sys2Proof.Machine

/-! ### What each command answers: its meaning with the named updates of the state written out -/

/-- A generator after as many steps as a word says has made the jump by that word (rule R70). -/
theorem Gen.after_toNat (x : Gen) (a : Word) : x.after a.toNat = ⟨jump64 x.state a x.inc, x.inc⟩ := by
  rw [Gen.after, jump64_eq_lcgSteps]

section commands

variable (s : State)

/-- Rule R76. -/
theorem exec_g32Seed : exec .g32Seed s =
    .next { s with g := ⟨seedState s.arg0 (seedInc s.arg1), seedInc s.arg1⟩ } := rfl

/-- Rule R77: one step, with the output of the old state. -/
theorem exec_g32Next : exec .g32Next s =
    .next { s with g := s.g.after 1, res0 := (xshrr s.g.state).setWidth 64 } := rfl

/-- Rule R78: the sampler's answer written back. -/
theorem exec_g32Bounded : exec .g32Bounded s = finishSample (bounded32 s.g.state s.g.inc s.opBound32)
    fun d => { s with g := ⟨d.2, s.g.inc⟩, res0 := d.1.setWidth 64 } := rfl

/-- The jump is that many steps (rule R70). -/
theorem exec_g32Jump : exec .g32Jump s = .next { s with g := s.g.after s.arg0.toNat } := by
  rw [Gen.after_toNat]
  rfl

/-- The jump back is a jump by the two's complement (rule R72). -/
theorem exec_g32JumpBack : exec .g32JumpBack s = .next { s with g := s.g.after (-s.arg0).toNat } := by
  rw [Gen.after_toNat]
  rfl

/-- Rule R81. -/
theorem exec_g32Load : exec .g32Load s = .next { s with g := ⟨s.arg0, s.g.inc⟩ } := rfl

/-- `C64_BOUNDED` samples the fast path's draws, which `BOUNDED64_SOURCE` selects (rules R7, R96). -/
theorem exec_c64Bounded : exec .c64Bounded s = finishSample
    (bounded (drawCombined s.c.hi.inc s.c.lo.inc) drawLimit64 s.arg0 (s.c.hi.state, s.c.lo.state))
    fun d => { s with c := ⟨⟨d.2.1, s.c.hi.inc⟩, ⟨d.2.2, s.c.lo.inc⟩⟩, res0 := d.1 } := rfl

/-- The bound of `G32_BOUNDED` is the field `ARG0[31:0]`. -/
theorem opBound32_eq : s.opBound32 = s.arg0.extractLsb' 0 32 :=
  BitVec.setWidth_eq_extractLsb' (by decide)

/-- The draws of `G32_BOUNDED` are the base generator's outputs. -/
theorem toNat_nthDraw_next32 (x : Gen) (k : Nat) :
    (nthDraw (fun w => next32 w x.inc) x.state k).toNat = baseDraw x k := by
  rw [nthDraw, afterDraws, iterate_next32]
  rfl

end commands

/-! ### `G32_SEED` (rule R76) -/

/-- Settles O22: by the command's equation; bit 63 of the sequence is shifted out. -/
theorem g32SeedSetsStateAndIncrement : Obligations.G32SeedSetsStateAndIncrement := by
  refine ⟨by decide, ?_, fun q => ?_, fun s h0 h1 => ?_, fun s h0 h1 => ?_⟩
  · rintro s inc rfl
    rw [exec_g32Seed, seedState, lcg64, BitVec.mul_comm]
    rfl
  · rw [BitVec.shiftLeft_xor_distrib]
    simp
  · rw [exec_g32Seed, h0, h1]
    rfl
  · rw [exec_g32Seed, h0, h1]
    rfl

/-! ### `G32_NEXT` (rule R77) -/

/-- Settles O23: by the command's equation, the output permutation being the rotation of rule R67. -/
theorem g32NextOutputsAndSteps : Obligations.G32NextOutputsAndSteps := by
  refine ⟨by decide, fun s => ?_, fun s h => ?_, fun s h => ?_⟩
  · rw [exec_g32Next, xshrr_eq_rotateRight, Gen.after, lcgSteps_succ_last, lcgSteps_zero, lcg64, BitVec.mul_comm]
    rfl
  · rw [exec_g32Next, Gen.after, h, lcgSteps_succ_last, lcgSteps_zero, lcg64, mul_zero, zero_add]
    rfl
  · rw [exec_g32Next, h]
    rfl

/-! ### `G32_BOUNDED` (rules R74, R78, R84) -/

/-- Bound 0 answers 0 without a draw. -/
theorem exec_g32Bounded_of_zero (s : State) (h : s.arg0.extractLsb' 0 32 = 0) :
    exec .g32Bounded s = .next { s with res0 := 0 } := by
  have hbound : bounded32 s.g.state s.g.inc s.opBound32 = some (0, s.g.state) := by
    rw [opBound32_eq, h]
    exact bounded_zero _ _ _
  rw [exec_g32Bounded, hbound]
  rfl

/-- With an odd increment a non-zero bound gets the first accepted draw. -/
theorem exec_g32Bounded_of_odd (s : State) (hodd : s.g.odd) (hb : (s.arg0.extractLsb' 0 32).toNat ≠ 0) :
    ∃ k, k < 2 ^ 64 ∧ AcceptedAt (baseDraw s.g) (thresholdNat 32 (s.arg0.extractLsb' 0 32).toNat) k ∧
      exec .g32Bounded s = .next { s with
        g := s.g.after (k + 1)
        res0 := BitVec.ofNat 64 (baseDraw s.g k % (s.arg0.extractLsb' 0 32).toNat) } := by
  have hne : s.opBound32 ≠ 0 := fun h => hb (by rw [← opBound32_eq, h]; rfl)
  obtain ⟨⟨v, w⟩, hvw⟩ := exists_bounded32_eq_some s.g.state s.g.inc s.opBound32 hodd
  obtain ⟨k, hk, hacc, rfl, rfl⟩ := (bounded_eq_some_iff _ _ _ hne _ _).1 hvw
  simp only [toNat_nthDraw_next32, threshold_toNat _ hne] at hacc
  refine ⟨k, hk, opBound32_eq s ▸ hacc, ?_⟩
  have hres : (nthDraw (fun w => next32 w s.g.inc) s.g.state k % s.opBound32).setWidth 64 =
      BitVec.ofNat 64 (baseDraw s.g k % (s.arg0.extractLsb' 0 32).toNat) := by
    rw [← BitVec.ofNat_toNat, BitVec.toNat_umod, toNat_nthDraw_next32, opBound32_eq]
  rw [exec_g32Bounded, hvw, ← hres, afterDraws, iterate_next32]
  rfl

/-- Settles O17: the answer is a remainder modulo the bound, and the accepted draws are whole periods of remainders. -/
theorem g32BoundedInRangeWithoutBias : Obligations.G32BoundedInRangeWithoutBias := by
  refine ⟨fun s t h => ⟨fun hne => ?_, fun hzero => ?_⟩,
    fun b _ hlt => ⟨dvd_accepted hlt, fun r hr => card_accepted_residue hlt hr⟩⟩
  · rw [exec_g32Bounded, opBound32_eq] at h
    obtain ⟨⟨v, w⟩, hvw, rfl⟩ := (finishSample_next _ _ _).1 h
    obtain ⟨k, -, -, rfl, -⟩ := (bounded_eq_some_iff _ _ _ hne _ _).1 hvw
    rw [BitVec.toNat_setWidth_of_le (by decide), BitVec.toNat_umod]
    exact Nat.mod_lt _ (BitVec.toNat_pos_of_ne_zero hne)
  · rw [exec_g32Bounded_of_zero s hzero] at h
    cases h
    rfl

/-- Settles O24: with an odd increment the sampler ends at its first accepted draw; below a threshold of 0 there is none
to reject. -/
theorem g32BoundedReturnsTheFirstAcceptedDraw : Obligations.G32BoundedReturnsTheFirstAcceptedDraw := by
  refine ⟨by decide, exec_g32Bounded_of_zero, ?_, thresholdNat_two_pow (k := 0) (by decide),
    fun k hk => thresholdNat_two_pow hk.le, by decide, fun b hpos hlt => ?_, by decide, fun s hg h0 => ?_⟩
  · rintro s b hodd rfl hb
    obtain ⟨k, hk, hacc, hexec⟩ := exec_g32Bounded_of_odd s hodd hb
    refine ⟨k, hk, hacc, fun hthr => ?_, Nat.mod_lt _ (Nat.pos_of_ne_zero hb), hexec⟩
    by_contra hne
    exact Nat.not_lt_zero _ (hthr ▸ hacc.1 0 (Nat.pos_of_ne_zero hne))
  · have := two_mul_thresholdNat_lt hpos hlt
    omega
  · have hbound : s.opBound32 = 10 := by rw [State.opBound32, h0]; rfl
    have hdraw : bounded32 0x185706b82c2e03f8 0x6d 10 = some (3, 0x2b47fed88766bb05) := by decide
    rw [exec_g32Bounded, hbound, hg, hdraw]
    rfl

/-! ### The jumps (rules R79, R80) -/

section after

variable (x : Gen)

/-- Steps add up. -/
theorem Gen.after_after (m n : Nat) : (x.after m).after n = x.after (m + n) := by
  rw [Gen.after, Gen.after, Gen.after, lcgSteps_add]

/-- The last step, taken apart. -/
theorem Gen.after_succ_state (n : Nat) :
    (x.after (n + 1)).state = (x.after n).state * 0x5851f42d4c957f2d + x.inc := by
  rw [Gen.after, lcgSteps_succ_last, lcg64, BitVec.mul_comm]
  rfl

variable {x}

/-- Whole cycles lead back. -/
theorem Gen.after_eq_self (hx : x.odd) {n : Nat} (hn : 2 ^ 64 ∣ n) : x.after n = x := by
  rw [Gen.after, (lcgSteps_eq_self_iff x.inc hx n x.state).2 hn]

/-- A jump undoes the jump back. -/
theorem Gen.after_neg_after (hx : x.odd) (a : Word) : (x.after (-a).toNat).after a.toNat = x := by
  rw [Gen.after_toNat, Gen.after_toNat]
  exact congrArg (Gen.mk · x.inc) (jump64_jumpback64 x.state a x.inc hx)

/-- A jump back undoes the jump. -/
theorem Gen.after_after_neg (hx : x.odd) (a : Word) : (x.after a.toNat).after (-a).toNat = x := by
  rw [Gen.after_toNat, Gen.after_toNat]
  exact congrArg (Gen.mk · x.inc) (jumpback64_jump64 x.state a x.inc hx)

end after

/-- Executing `G32_NEXT` again and again steps the generator. -/
theorem execTimes_g32Next (n : Nat) (s : State) : ∃ u, execTimes .g32Next n s = .next u ∧ u.g = s.g.after n := by
  induction n generalizing s with
  | zero => exact ⟨s, rfl, rfl⟩
  | succ n ih => exact ih { s with g := s.g.after 1, res0 := (xshrr s.g.state).setWidth 64 }

/-- Settles O25: the jump is a number of steps, and 2^64 steps are a whole cycle. -/
theorem g32JumpAdvancesByDelta : Obligations.G32JumpAdvancesByDelta := by
  refine ⟨by decide, exec_g32Jump, fun s => ?_, fun s h0 => ?_, fun s hodd h0 => ?_, fun s hodd h0 => ?_,
    fun s hg h0 => ?_⟩
  · obtain ⟨u, hu, hug⟩ := execTimes_g32Next s.arg0.toNat s
    exact ⟨_, u, exec_g32Jump s, hu, hug.symm⟩
  · have hzero : s.arg0.toNat = 0 := by rw [h0]; rfl
    rw [exec_g32Jump, hzero]
    rfl
  · refine ⟨_, exec_g32Jump s, ?_⟩
    have hcycle : s.arg0.toNat + 1 = 2 ^ 64 := by rw [h0]; decide
    rw [← Gen.after_succ_state, hcycle, Gen.after_eq_self hodd dvd_rfl]
  · refine ⟨_, exec_g32Jump s, ?_⟩
    have hcycle : s.arg0.toNat + s.arg0.toNat = 2 ^ 64 := by rw [h0]; decide
    rw [exec_g32Jump, Gen.after_after, hcycle, Gen.after_eq_self hodd dvd_rfl]
  · rw [exec_g32Jump, hg, h0]
    rfl

/-- Settles O26: the jump back is a number of steps, and with an odd increment it and the jump undo each other. -/
theorem g32JumpBackRetreatsByDelta : Obligations.G32JumpBackRetreatsByDelta := by
  refine ⟨by decide, fun s => ?_, fun s h0 => ?_, fun s h0 => ?_, fun s hodd => ?_, fun s hodd h0 => ?_,
    fun s hg h0 => ?_⟩
  · rw [exec_g32JumpBack, BitVec.toNat_neg]
  · have hzero : (-s.arg0).toNat = 0 := by rw [h0]; rfl
    rw [exec_g32JumpBack, hzero]
    rfl
  · have hneg : -s.arg0 = s.arg0 := by rw [h0]; decide
    rw [exec_g32JumpBack, exec_g32Jump, hneg]
  · refine ⟨_, exec_g32JumpBack s, ?_⟩
    rw [exec_g32Jump, Gen.after_neg_after hodd]
  · refine ⟨_, exec_g32Next s, ?_⟩
    have hone : s.g.after 1 = s.g.after s.arg0.toNat := by rw [h0]; rfl
    rw [exec_g32JumpBack, hone, Gen.after_after_neg hodd]
  · have hstep : s.g = Gen.after ⟨0x97, 0x6d⟩ s.arg0.toNat := by rw [hg, h0]; decide
    rw [exec_g32JumpBack, hstep, Gen.after_after_neg (x := ⟨0x97, 0x6d⟩) rfl]

/-! ### `G32_LOAD` (rule R81) -/

/-- Settles O27: with none pending a read of `G_STATE` returns the state word, which the load writes back. -/
theorem g32LoadOverwritesTheStateWord : Obligations.G32LoadOverwritesTheStateWord := by
  refine ⟨by decide, exec_g32Load, fun s u hidle hinc harg => ⟨_, exec_g32Load u, ?_⟩⟩
  have hread : u.arg0 = s.g.state := by rw [harg, hostRead_of_idle _ _ hidle]; rfl
  rw [hread, hinc]

/-! ### When a bounded command stops (93_implementation_defined.md I3) -/

/-- A sampler's answer is the fault exactly when the loop accepted no draw. -/
theorem finishSample_fault {α : Type} (r : Option α) (write : α → State) :
    finishSample r write = .fault .samplerStuck ↔ r = none := by
  cases r <;> simp [finishSample]

/-- The draws of `C64_BOUNDED` are the fast path's outputs. -/
theorem toNat_nthDraw_drawCombined (c : Comp) (k : Nat) :
    (nthDraw (drawCombined c.hi.inc c.lo.inc) (c.hi.state, c.lo.state) k).toNat = fastDraw c k := by
  rw [nthDraw, afterDraws, iterate_drawCombined]
  have happend (h l : Word32) : (h.setWidth 64 <<< 32 ||| l.setWidth 64).toNat = h.toNat * 2 ^ 32 + l.toNat := by
    rw [← BitVec.setWidth_append_eq_shiftLeft_setWidth_or, BitVec.setWidth_eq, BitVec.toNat_append,
      ← Nat.shiftLeft_add_eq_or_of_lt l.isLt, Nat.shiftLeft_eq]
  exact happend _ _

/-- A base generator's states, and the composite's, number no more than the draws their samplers are allowed. -/
theorem natCard_le_drawLimit :
    Nat.card Word ≤ drawLimit32 ∧ Nat.card (Word × Word) ≤ drawLimit64 := by
  rw [Nat.card_prod, natCard_bitVec]
  decide

/-- Settles O38: the samplers are allowed as many draws as there are states, so a draw they did not make repeats
one they did. -/
theorem boundedCommandsStopOnlyWhenNoDrawIsEverAccepted :
    Obligations.BoundedCommandsStopOnlyWhenNoDrawIsEverAccepted := by
  refine ⟨fun s => ?_, fun s => ?_, fun src hi lo b st =>
    bounded_eq_none_iff _ natCard_le_drawLimit.2 b st⟩
  · rw [exec_g32Bounded, finishSample_fault, opBound32_eq, bounded32, bounded_eq_none_iff _ natCard_le_drawLimit.1]
    simp only [toNat_nthDraw_next32]
  · rw [exec_c64Bounded, finishSample_fault, bounded_eq_none_iff _ natCard_le_drawLimit.2]
    simp only [toNat_nthDraw_drawCombined]

end Sys2Proof.Machine
end

section
/-! PROOFS. The statements of 41_composite_generator.md section 1: the 128-bit step as a number, its word-level
computations, and the output permutation. -/

namespace Sys2Proof.Machine

/-! ### The two words as one 128-bit number (41_composite_generator.md rule R88) -/

/-- The number two words make together: `hi * 2^64 + lo` (00_scope.md rule R10). -/
theorem u128_toNat (hi lo : Word) : (u128 hi lo).toNat = hi.toNat * 2 ^ 64 + lo.toNat := by
  rw [u128, BitVec.toNat_append, ← Nat.shiftLeft_add_eq_or_of_lt lo.isLt, Nat.shiftLeft_eq]

/-- Every 128-bit number is made of its two words. -/
theorem u128_halves (x : Word128) : u128 (x.extractLsb' 64 64) (x.extractLsb' 0 64) = x :=
  BitVec.extractLsb'_append_extractLsb' (w := 64) (len := 64)

/-- Pairs of words that make the same number are equal. -/
theorem eq_of_u128_eq {p q : Word × Word} (h : (u128 p.1 p.2).toNat = (u128 q.1 q.2).toNat) : p = q := by
  have hp := p.2.isLt
  have hq := q.2.isLt
  rw [u128_toNat, u128_toNat] at h
  exact Prod.ext (BitVec.eq_of_toNat_eq (by omega)) (BitVec.eq_of_toNat_eq (by omega))

/-- The words after the step make the number after it. -/
theorem u128_step128With (mul inc : Word128) (h l : Word) :
    u128 (step128With mul inc h l).1 (step128With mul inc h l).2 = u128 h l * mul + inc :=
  u128_halves _

/-- Settles O19: the words after the step make one number, a product and sum modulo 2^128. -/
theorem step128IsMultiplyAddModulo : Obligations.Step128IsMultiplyAddModulo := by
  refine ⟨fun mul inc h l => ?_, fun h l => rfl⟩
  rw [← u128_toNat, u128_step128With, BitVec.toNat_add, BitVec.toNat_mul, Nat.mod_add_mod, u128_toNat]

/-- The new low word is a 64-bit step of the low word with the constants' low words: the high word is not in it. -/
theorem step128With_snd (mul inc : Word128) (h l : Word) :
    (step128With mul inc h l).2 = l * mul.extractLsb' 0 64 + inc.extractLsb' 0 64 := by
  have hlow (x y : Word128) : (x + y).extractLsb' 0 64 = x.extractLsb' 0 64 + y.extractLsb' 0 64 := by
    simp only [← BitVec.setWidth_eq_extractLsb' (show 64 ≤ 128 by decide)]
    exact BitVec.setWidth_add x y (by decide)
  rw [step128With, hlow, BitVec.extractLsb'_mul (by decide), u128, BitVec.extractLsb'_append_eq_right]

/-! ### The word-level computations (41_composite_generator.md rule R89) -/

/-- The product of two words fits in 128 bits. -/
theorem u128_mul64x128 (a b : Word) : (u128 (mul64x128 a b).1 (mul64x128 a b).2).toNat = a.toNat * b.toNat := by
  have hfit : a.toNat * b.toNat < 2 ^ 64 * 2 ^ 64 := Nat.mul_lt_mul'' a.isLt b.isLt
  rw [mul64x128, u128_halves, BitVec.toNat_mul, BitVec.toNat_setWidth_of_le (by decide),
    BitVec.toNat_setWidth_of_le (by decide)]
  exact Nat.mod_eq_of_lt hfit

/-- The lower 32-bit half of a word, as `mul64x128Halves` takes it. -/
def lowerHalf (x : Word) : Word := x &&& 0xffffffff

theorem toNat_lowerHalf (x : Word) : (lowerHalf x).toNat = x.toNat % 2 ^ 32 :=
  (BitVec.toNat_and x _).trans (Nat.and_two_pow_sub_one_eq_mod _ 32)

theorem toNat_lowerHalf_lt (x : Word) : (lowerHalf x).toNat < 2 ^ 32 := by
  rw [toNat_lowerHalf]
  omega

theorem toNat_upperHalf (x : Word) : (x >>> 32).toNat = x.toNat / 2 ^ 32 := by
  rw [BitVec.toNat_ushiftRight, Nat.shiftRight_eq_div_pow]

theorem toNat_upperHalf_lt (x : Word) : (x >>> 32).toNat < 2 ^ 32 := by
  have := x.isLt
  rw [toNat_upperHalf]
  omega

/-- A word is its two 32-bit halves. -/
theorem toNat_eq_halves (x : Word) : x.toNat = (x >>> 32).toNat * 2 ^ 32 + (lowerHalf x).toNat := by
  rw [toNat_lowerHalf, toNat_upperHalf]
  omega

/-- The product of two 32-bit halves is exact. -/
theorem toNat_mul_of_halves {x y : Word} (hx : x.toNat < 2 ^ 32) (hy : y.toNat < 2 ^ 32) :
    (x * y).toNat = x.toNat * y.toNat ∧ (x * y).toNat ≤ (2 ^ 32 - 1) * (2 ^ 32 - 1) := by
  have hle : x.toNat * y.toNat ≤ (2 ^ 32 - 1) * (2 ^ 32 - 1) :=
    Nat.mul_le_mul (Nat.le_pred_of_lt hx) (Nat.le_pred_of_lt hy)
  rw [BitVec.toNat_mul, Nat.mod_eq_of_lt (by omega)]
  exact ⟨rfl, hle⟩

/-- Two 32-bit halves put together. -/
theorem toNat_joinHalves (x y : Word) (hy : y.toNat < 2 ^ 32) :
    ((x <<< 32) ||| y).toNat = x.toNat % 2 ^ 32 * 2 ^ 32 + y.toNat := by
  have hshift : (x <<< 32).toNat = (x.toNat % 2 ^ 32) <<< 32 := by
    rw [BitVec.toNat_shiftLeft, Nat.shiftLeft_eq, Nat.shiftLeft_eq]
    omega
  rw [BitVec.toNat_or, hshift, ← Nat.shiftLeft_add_eq_or_of_lt hy, Nat.shiftLeft_eq]

/-- The two words of the sum of the four partial products, with its carries, as `mul64x128Halves` puts them together. -/
def sumPartialProducts (ll hl lh hh : Word) : Word × Word :=
  let mid := hl + (ll >>> 32)
  let mid' := lh + lowerHalf mid
  (hh + (mid >>> 32) + (mid' >>> 32), (mid' <<< 32) ||| lowerHalf ll)

/-- No carry is lost: a product of two 32-bit halves leaves room for the two carries added to it. -/
theorem u128_sumPartialProducts {ll hl lh hh : Word} (hhl : hl.toNat ≤ (2 ^ 32 - 1) * (2 ^ 32 - 1))
    (hlh : lh.toNat ≤ (2 ^ 32 - 1) * (2 ^ 32 - 1)) (hhh : hh.toNat ≤ (2 ^ 32 - 1) * (2 ^ 32 - 1)) :
    (u128 (sumPartialProducts ll hl lh hh).1 (sumPartialProducts ll hl lh hh).2).toNat =
      hh.toNat * 2 ^ 64 + (hl.toNat + lh.toNat) * 2 ^ 32 + ll.toNat := by
  have hll := ll.isLt
  simp only [u128_toNat, sumPartialProducts, toNat_joinHalves _ _ (toNat_lowerHalf_lt ll), BitVec.toNat_add,
    toNat_upperHalf, toNat_lowerHalf]
  omega

/-- The multiplier from halves sums the four products of the operands' halves. -/
theorem mul64x128Halves_eq (a b : Word) : mul64x128Halves a b =
    sumPartialProducts (lowerHalf a * lowerHalf b) ((a >>> 32) * lowerHalf b)
      (lowerHalf a * (b >>> 32)) ((a >>> 32) * (b >>> 32)) := rfl

/-- The product from 32-bit halves is the product. -/
theorem u128_mul64x128Halves (a b : Word) :
    (u128 (mul64x128Halves a b).1 (mul64x128Halves a b).2).toNat = a.toNat * b.toNat := by
  obtain ⟨hll, -⟩ := toNat_mul_of_halves (toNat_lowerHalf_lt a) (toNat_lowerHalf_lt b)
  obtain ⟨hhl, bhl⟩ := toNat_mul_of_halves (toNat_upperHalf_lt a) (toNat_lowerHalf_lt b)
  obtain ⟨hlh, blh⟩ := toNat_mul_of_halves (toNat_lowerHalf_lt a) (toNat_upperHalf_lt b)
  obtain ⟨hhh, bhh⟩ := toNat_mul_of_halves (toNat_upperHalf_lt a) (toNat_upperHalf_lt b)
  rw [mul64x128Halves_eq, u128_sumPartialProducts bhl blh bhh, hll, hhl, hlh, hhh, toNat_eq_halves a,
    toNat_eq_halves b]
  ring

/-- The words of a number modulo 2^128, of which the high word takes the carry: multiples of 2^128 are lost. -/
theorem words_of_sum (c hi lo : Nat) :
    (hi + lo / 2 ^ 64) % 2 ^ 64 * 2 ^ 64 + lo % 2 ^ 64 = (c * 2 ^ 128 + hi * 2 ^ 64 + lo) % 2 ^ 128 := by
  omega

/-- The words of a product and sum modulo 2^128: the product of the two high words is lost. -/
theorem words_of_multiplyAdd {ph pl l mulLo : Nat} (hp : ph * 2 ^ 64 + pl = l * mulLo) (h mulHi incHi incLo : Nat) :
    (ph + h * mulLo + l * mulHi + incHi + (pl + incLo) / 2 ^ 64) % 2 ^ 64 * 2 ^ 64 + (pl + incLo) % 2 ^ 64 =
      ((h * 2 ^ 64 + l) * (mulHi * 2 ^ 64 + mulLo) + (incHi * 2 ^ 64 + incLo)) % 2 ^ 128 := by
  have hsum : h * mulHi * 2 ^ 128 + (ph + h * mulLo + l * mulHi + incHi) * 2 ^ 64 + (pl + incLo) =
      (h * 2 ^ 64 + l) * (mulHi * 2 ^ 64 + mulLo) + (incHi * 2 ^ 64 + incLo) := by linear_combination hp
  rw [words_of_sum (h * mulHi), hsum]

/-- The carry out of the low word's sum. -/
theorem toNat_carry (x y : Word) :
    (if 2 ^ 64 ≤ x.toNat + y.toNat then 1 else 0 : Word).toNat = (x.toNat + y.toNat) / 2 ^ 64 := by
  have hx := x.isLt
  have hy := y.isLt
  split
  · change 1 = _
    omega
  · change 0 = _
    omega

/-- The extended-precision multiply-add over any exact multiplier is the 128-bit step. -/
theorem step128Words_eq {mulWide : Word → Word → Word × Word}
    (hwide : ∀ a b, (u128 (mulWide a b).1 (mulWide a b).2).toNat = a.toNat * b.toNat) (mul inc : Word128) (h l : Word) :
    step128Words mulWide mul inc h l = step128With mul inc h l := by
  have hp := hwide l (mul.extractLsb' 0 64)
  have hmul := u128_toNat (mul.extractLsb' 64 64) (mul.extractLsb' 0 64)
  have hinc := u128_toNat (inc.extractLsb' 64 64) (inc.extractLsb' 0 64)
  rw [u128_halves] at hmul hinc
  rw [u128_toNat] at hp
  apply eq_of_u128_eq
  rw [u128_step128With, BitVec.toNat_add, BitVec.toNat_mul, Nat.mod_add_mod, u128_toNat h l, hmul, hinc,
    ← words_of_multiplyAdd hp, u128_toNat, step128Words]
  simp only [BitVec.toNat_add, BitVec.toNat_mul, toNat_carry, Nat.add_mod_mod, Nat.mod_add_mod]

/-- Settles O20: both multipliers are exact, and the word-level step is the 128-bit one over any exact multiplier. -/
theorem wordLevelStepAgrees : Obligations.WordLevelStepAgrees := by
  refine ⟨fun a b => ?_, fun a b => ?_, fun mul inc h l =>
    ⟨step128Words_eq u128_mul64x128 mul inc h l, step128Words_eq u128_mul64x128Halves mul inc h l⟩⟩
  · rw [← u128_toNat, u128_mul64x128]
  · exact eq_of_u128_eq ((u128_mul64x128Halves a b).trans (u128_mul64x128 a b).symm)

/-! ### The output permutation (41_composite_generator.md rule R90) -/

/-- Multiplication by an odd word loses nothing. -/
theorem mul_left_injective_of_odd {d : Word} (hd : d.getLsbD 0 = true) : Function.Injective (· * d) := by
  intro x y hxy
  have hodd : Odd d.toNat := Nat.odd_iff.2 ((getLsbD_zero_eq_true_iff d).1 hd)
  have hco : Nat.Coprime (2 ^ 64) d.toNat := Nat.Coprime.pow_left 64 (Nat.coprime_two_left.2 hodd)
  have hmod : x.toNat * d.toNat ≡ y.toNat * d.toNat [MOD 2 ^ 64] := by
    have := congrArg BitVec.toNat (show x * d = y * d from hxy)
    rwa [BitVec.toNat_mul, BitVec.toNat_mul] at this
  exact BitVec.eq_of_toNat_eq ((hmod.cancel_right_of_coprime hco).eq_of_lt_of_lt x.isLt y.isLt)

/-- The permutation loses nothing of the high word: it is two xorshifts and two multiplications by odd words. -/
theorem perm64_injective (l : Word) : Function.Injective fun h => perm64 h l := by
  have hl : (l ||| 1).getLsbD 0 = true := by simp
  have hcheap : cheapMul.getLsbD 0 = true := by decide
  intro x y hxy
  have hshifted := mul_left_injective_of_odd hl hxy
  have hmul := xorShift_injective (show 0 < hqXsh2 by decide) hshifted
  rw [BitVec.mul_comm, BitVec.mul_comm cheapMul] at hmul
  exact xorShift_injective (show 0 < hqXsh1 by decide) (mul_left_injective_of_odd hcheap hmul)

/-- Settles O21: the formula by the parameters' values; an injective map of words is a bijection. -/
theorem perm64IsABijection : Obligations.Perm64IsABijection := by
  refine ⟨fun h l => ?_, fun l => Finite.injective_iff_bijective.1 (perm64_injective l), fun s => ⟨_, rfl, rfl⟩⟩
  simp only [perm64, BitVec.mul_comm cheapMul]
  rfl

end Sys2Proof.Machine
end

section
/-! PROOFS. The eight commands of group 1, the composite generator (41_composite_generator.md section 2). -/

namespace Sys2Proof.Machine

/-! ### What each command answers: its meaning with the named updates of the state written out -/

/-- The fast-path draw is the high half's output above the low half's. -/
theorem drawCombined_fst (hiInc loInc : Word) (s : Word × Word) :
    (drawCombined hiInc loInc s).1 = xshrr s.1 ++ xshrr s.2 := by
  rw [← BitVec.setWidth_eq (xshrr s.1 ++ xshrr s.2), BitVec.setWidth_append_eq_shiftLeft_setWidth_or]
  rfl

section commands

variable (s : State)

/-- Rule R92. -/
theorem exec_c64Seed : exec .c64Seed s = .next { s with c :=
    ⟨⟨seedState s.arg1 (seedInc (adjustSeq s.arg2 s.arg3)), seedInc (adjustSeq s.arg2 s.arg3)⟩,
      ⟨seedState s.arg0 (seedInc s.arg2), seedInc s.arg2⟩⟩ } := rfl

/-- Rule R93: one step of each half, with the outputs of the old states. -/
theorem exec_c64Next : exec .c64Next s = .next { s with
    c := ⟨s.c.hi.after 1, s.c.lo.after 1⟩, res0 := xshrr s.c.hi.state ++ xshrr s.c.lo.state } := by
  rw [← drawCombined_fst s.c.hi.inc s.c.lo.inc (s.c.hi.state, s.c.lo.state)]
  rfl

/-- The jump is that many steps of each half (rule R97). -/
theorem exec_c64Jump : exec .c64Jump s =
    .next { s with c := ⟨s.c.hi.after s.arg0.toNat, s.c.lo.after s.arg0.toNat⟩ } := by
  rw [Gen.after_toNat, Gen.after_toNat]
  rfl

/-- The jump back is a jump of each half by the two's complement (rule R98). -/
theorem exec_c64JumpBack : exec .c64JumpBack s =
    .next { s with c := ⟨s.c.hi.after (-s.arg0).toNat, s.c.lo.after (-s.arg0).toNat⟩ } := by
  rw [Gen.after_toNat, Gen.after_toNat]
  rfl

/-- Rule R99. -/
theorem exec_c64Load : exec .c64Load s =
    .next { s with c := ⟨⟨s.arg0, s.c.hi.inc⟩, ⟨s.arg1, s.c.lo.inc⟩⟩ } := rfl

/-- Rule R94: the post-step words, as state and as results. -/
theorem exec_c64Step128 : exec .c64Step128 s = .next { s with
    c := ⟨⟨(step128 s.c.hi.state s.c.lo.state).1, s.c.hi.inc⟩, ⟨(step128 s.c.hi.state s.c.lo.state).2, s.c.lo.inc⟩⟩
    res0 := (step128 s.c.hi.state s.c.lo.state).1
    res1 := (step128 s.c.hi.state s.c.lo.state).2 } := rfl

/-- Rule R95: the post-step words as state, and permuted as the result. -/
theorem exec_c64Hq64 : exec .c64Hq64 s = .next { s with
    c := ⟨⟨(step128 s.c.hi.state s.c.lo.state).1, s.c.hi.inc⟩, ⟨(step128 s.c.hi.state s.c.lo.state).2, s.c.lo.inc⟩⟩
    res0 := perm64 (step128 s.c.hi.state s.c.lo.state).1 (step128 s.c.hi.state s.c.lo.state).2 } := rfl

end commands

/-! ### `C64_SEED` (rules R92, R100) -/

/-- Two words masked with `MASK63` are equal when their bits 62:0 are. -/
theorem and_mask63_eq_iff (x y : Word) :
    x &&& mask63 = y &&& mask63 ↔ x.extractLsb' 0 63 = y.extractLsb' 0 63 := by
  have hmask (z : Word) : (z &&& mask63).toNat = (z.extractLsb' 0 63).toNat :=
    (BitVec.toNat_and z mask63).trans ((Nat.and_two_pow_sub_one_eq_mod _ 63).trans (by simp))
  rw [← BitVec.toNat_inj, hmask, hmask, BitVec.toNat_inj]

/-- The second sequence is complemented when its bits 62:0 are those of the first. -/
theorem adjustSeq_eq (seqHi seqLo : Word) : adjustSeq seqHi seqLo =
    if seqLo.extractLsb' 0 63 = seqHi.extractLsb' 0 63 then ~~~seqLo else seqLo := by
  simp only [adjustSeq, and_mask63_eq_iff]

/-- An increment is bits 62:0 of its sequence above a 1. -/
theorem seedInc_eq_append (q : Word) : seedInc q = q.extractLsb' 0 63 ++ 1#1 := by
  refine BitVec.eq_of_getLsbD_eq fun i hi => ?_
  rw [BitVec.getLsbD_append]
  cases i with
  | zero => simp [seedInc]
  | succ i =>
    have hlow : i < 63 := by omega
    simp [seedInc, hi, hlow, BitVec.getLsbD_eq_getElem (hlow.trans (Nat.lt_succ_self 63))]

/-- Two increments are equal when bits 62:0 of their sequences are. -/
theorem seedInc_eq_iff (x y : Word) : seedInc x = seedInc y ↔ x.extractLsb' 0 63 = y.extractLsb' 0 63 := by
  rw [seedInc_eq_append, seedInc_eq_append]
  exact BitVec.append_left_inj 1#1

/-- The adjusted second sequence differs from the first below bit 63. -/
theorem extractLsb'_adjustSeq_ne (seqHi seqLo : Word) :
    (adjustSeq seqHi seqLo).extractLsb' 0 63 ≠ seqHi.extractLsb' 0 63 := by
  rw [adjustSeq_eq]
  split
  · next heq =>
    rw [BitVec.extractLsb'_not_of_lt (by decide), heq]
    intro h
    have hbit := congrArg (BitVec.getLsbD · 0) h
    simp at hbit
  · next hne => exact hne

/-- Settles O36: an increment says bits 62:0 of its sequence, in which the adjusted second sequence differs from the
first. -/
theorem seededIncrementsDiffer : Obligations.SeededIncrementsDiffer :=
  fun s => ⟨_, exec_c64Seed s, fun h => extractLsb'_adjustSeq_ne s.arg2 s.arg3 ((seedInc_eq_iff _ _).1 h)⟩

/-- Settles O28: by the command's equation, the comparison being one of bits 62:0. -/
theorem c64SeedCrossesAndSeparatesTheStreams : Obligations.C64SeedCrossesAndSeparatesTheStreams := by
  refine ⟨by decide, ?_, fun s hseq => ⟨_, exec_c64Seed s, ?_⟩, fun s h0 h1 h2 h3 => ?_,
    fun s _ _ h2 h3 => ⟨_, exec_c64Seed s, ?_⟩⟩
  · rintro s q hi lo rfl rfl rfl
    rw [exec_c64Seed, ← adjustSeq_eq, seedState, seedState, lcg64, lcg64, BitVec.mul_comm, BitVec.mul_comm mult64]
    rfl
  · have heq : s.arg3.extractLsb' 0 63 = s.arg2.extractLsb' 0 63 := by
      rcases hseq with h | h
      · rw [h]
      · rw [h, BitVec.extractLsb'_xor]
        exact BitVec.xor_zero
    rw [adjustSeq_eq, if_pos heq]
    rfl
  · rw [exec_c64Seed, h0, h1, h2, h3]
    rfl
  · rw [h2, h3]
    rfl

/-! ### `C64_NEXT` and `C64_LOAD` (rules R93, R99) -/

/-- Settles O29: by the command's equation. -/
theorem c64NextConcatenatesTwoDraws : Obligations.C64NextConcatenatesTwoDraws := by
  refine ⟨by decide, exec_c64Next, fun s hc => ?_⟩
  rw [exec_c64Next, hc]
  rfl

/-- Settles O35: by the command's equation. -/
theorem c64LoadOverwritesBothStateWords : Obligations.C64LoadOverwritesBothStateWords := by
  refine ⟨by decide, exec_c64Load, fun s h0 h1 hhi hlo => ⟨_, exec_c64Load s, ?_⟩⟩
  rw [h0, h1, hhi, hlo]

/-! ### `C64_STEP128` and `C64_HQ64` (rules R94, R95) -/

/-- The block's new low word is a 64-bit step of the old one. -/
theorem step128_snd (h l : Word) :
    (step128 h l).2 = l * Config.mul128.extractLsb' 0 64 + Config.inc128.extractLsb' 0 64 :=
  step128With_snd _ _ h l

/-- From 0 the step leads to the increment. -/
theorem step128_zero : step128 0 0 = (Config.inc128.extractLsb' 64 64, Config.inc128.extractLsb' 0 64) := by
  have hzero : u128 0 0 * Config.mul128 + Config.inc128 = Config.inc128 := by
    rw [show u128 0 0 = 0 from rfl, zero_mul, zero_add]
  rw [step128, step128With, hzero]

/-- Settles O30: by the command's equation; the increment is left of a step from 0, and the new low word is one of the
old low word alone. -/
theorem c64Step128StepsTheWideState : Obligations.C64Step128StepsTheWideState := by
  refine ⟨by decide, fun s nh nl hn => ?_, fun s hh hl => ⟨_, exec_c64Step128 s, ?_⟩,
    fun s x => ⟨_, _, exec_c64Step128 s, exec_c64Step128 _, ?_⟩⟩
  · rw [exec_c64Step128, ← hn]
  · rw [hh, hl, step128_zero]
    exact ⟨rfl, rfl⟩
  · exact (step128_snd _ _).trans (step128_snd _ _).symm

/-- Settles O31: by the command's equation; the permutation multiplies by `l | 1`, and keeps 0 at 0 before that. -/
theorem c64Hq64PermutesThePostStepWords : Obligations.C64Hq64PermutesThePostStepWords := by
  refine ⟨by decide, fun s nh nl hn => ?_, fun s => ⟨_, _, exec_c64Hq64 s, exec_c64Step128 s, rfl, rfl⟩, fun l => ?_,
    fun h l => ?_, by decide⟩
  · rw [exec_c64Hq64, ← hn]
  · have hmixed : perm64 0 l = 0 * (l ||| 1) := by simp [perm64]
    rw [hmixed, zero_mul]
  · rw [perm64, BitVec.or_assoc, BitVec.or_self]
    rfl

/-! ### The jumps (rules R97, R98, R101) -/

/-- Executing `C64_NEXT` again and again steps each half and writes `RES0`. -/
theorem execTimes_c64Next (n : Nat) (s : State) : ∃ r, execTimes .c64Next n s =
    .next { s with c := ⟨s.c.hi.after n, s.c.lo.after n⟩, res0 := r } := by
  induction n generalizing s with
  | zero => exact ⟨s.res0, rfl⟩
  | succ n ih =>
    rw [execTimes, exec_c64Next]
    exact ih _

/-- Settles O33: by the command's equation. -/
theorem c64JumpAdvancesBothHalves : Obligations.C64JumpAdvancesBothHalves := by
  refine ⟨by decide, exec_c64Jump, fun s h0 => ?_, fun s hc h0 => ?_⟩
  · have hzero : s.arg0.toNat = 0 := by rw [h0]; rfl
    rw [exec_c64Jump, hzero]
    rfl
  · rw [exec_c64Jump, hc, h0]
    rfl

/-- Settles O34: in each half the jump back undoes that many steps, which a jump makes and so do executions of
`C64_NEXT`. -/
theorem c64JumpBackRetreatsBothHalves : Obligations.C64JumpBackRetreatsBothHalves := by
  refine ⟨by decide, fun s => ?_, fun s hhi hlo => ⟨_, exec_c64Jump s, ?_⟩, fun s hhi hlo => ?_⟩
  · rw [exec_c64JumpBack, BitVec.toNat_neg]
  · rw [exec_c64JumpBack, Gen.after_after_neg hhi, Gen.after_after_neg hlo]
  · obtain ⟨r, hr⟩ := execTimes_c64Next s.arg0.toNat s
    refine ⟨_, _, hr, exec_c64JumpBack _, ?_⟩
    rw [Gen.after_after_neg hhi, Gen.after_after_neg hlo]

/-- Settles O37: both are that many steps of each half; a 64-bit step by the constants' low words is the LCG's when they
agree on the low words 0 and 1. -/
theorem compositeJumpIsFastStepsNotQualitySteps : Obligations.CompositeJumpIsFastStepsNotQualitySteps := by
  refine ⟨fun s => ?_, fun inc => ?_⟩
  · obtain ⟨r, hr⟩ := execTimes_c64Next s.arg0.toNat s
    exact ⟨_, _, exec_c64Jump s, hr, rfl⟩
  · simp only [step128_snd, lcg64]
    constructor
    · intro h
      have hinc : Config.inc128.extractLsb' 0 64 = inc := by simpa using h 0 0
      have hmul : Config.mul128.extractLsb' 0 64 = mult64 := by simpa [hinc] using h 0 1
      exact ⟨hmul, hinc⟩
    · rintro ⟨hmul, hinc⟩ h l
      rw [hmul, hinc, BitVec.mul_comm]

/-! ### `C64_BOUNDED` (rules R96, R102, R103) -/

/-- Below a threshold of 0 there is no draw to reject. -/
theorem AcceptedAt.eq_zero_of_thr_eq_zero {draws : Nat → Nat} {thr k : Nat} (h : AcceptedAt draws thr k)
    (hthr : thr = 0) : k = 0 := by
  by_contra hne
  exact Nat.not_lt_zero _ (hthr ▸ h.1 0 (Nat.pos_of_ne_zero hne))

/-- Bound 0 answers 0 without a draw. -/
theorem exec_c64Bounded_of_zero (s : State) (h : s.arg0 = 0) : exec .c64Bounded s = .next { s with res0 := 0 } := by
  rw [exec_c64Bounded, h, bounded_zero]
  rfl

/-- With an odd increment of the high half a non-zero bound gets the first accepted fast-path draw, one of the first
2^64. -/
theorem exec_c64Bounded_of_odd (s : State) (hodd : s.c.hi.odd) (hb : s.arg0 ≠ 0) :
    ∃ k, k < 2 ^ 64 ∧ AcceptedAt (fastDraw s.c) (thresholdNat 64 s.arg0.toNat) k ∧
      exec .c64Bounded s = .next { s with
        c := ⟨s.c.hi.after (k + 1), s.c.lo.after (k + 1)⟩
        res0 := BitVec.ofNat 64 (fastDraw s.c k % s.arg0.toNat) } := by
  obtain ⟨j, hj, hmsb⟩ := exists_xshrr_msb s.c.hi.inc hodd s.c.hi.state
  obtain ⟨⟨v, w⟩, hvw⟩ := exists_bounded_eq_some (drawCombined s.c.hi.inc s.c.lo.inc) s.arg0 (2 ^ 64) j
    (s.c.hi.state, s.c.lo.state) hj (by rw [iterate_drawCombined, msb_drawCombined]; exact hmsb)
  obtain ⟨k, hk, hacc, hv, hw⟩ := (bounded_eq_some_iff _ _ _ hb _ _).1 hvw
  have hbounded := (bounded_eq_some_iff _ drawLimit64 _ hb _ _).2 ⟨k, hk.trans (by decide), hacc, hv, hw⟩
  simp only [toNat_nthDraw_drawCombined, threshold_toNat _ hb] at hacc
  refine ⟨k, hk, hacc, ?_⟩
  have hres : v = BitVec.ofNat 64 (fastDraw s.c k % s.arg0.toNat) := by
    rw [hv, ← toNat_nthDraw_drawCombined, ← BitVec.toNat_umod, BitVec.ofNat_toNat, BitVec.setWidth_eq]
  rw [exec_c64Bounded, hbounded, ← hres, hw, afterDraws, iterate_drawCombined]
  rfl

/-- What `C64_BOUNDED` answers for a bound that is not 0 is a remainder modulo it. -/
theorem exec_c64Bounded_res0_lt {s t : State} (h : exec .c64Bounded s = .next t) (hb : s.arg0 ≠ 0) :
    t.res0 < s.arg0 := by
  rw [exec_c64Bounded] at h
  obtain ⟨⟨v, w⟩, hvw, rfl⟩ := (finishSample_next _ _ _).1 h
  obtain ⟨k, -, -, rfl, -⟩ := (bounded_eq_some_iff _ _ _ hb _ _).1 hvw
  exact BitVec.umod_lt _ ((BitVec.pos_iff_ne_zero _).2 hb)

/-- Settles O32: with an odd high increment the sampler ends at its first accepted draw; below a threshold of 0 there is
none to reject. -/
theorem c64BoundedReturnsTheFirstAcceptedDraw : Obligations.C64BoundedReturnsTheFirstAcceptedDraw := by
  refine ⟨by decide, exec_c64Bounded_of_zero, ?_, fun b hpos hlt => ?_, by decide,
    fun k hk => thresholdNat_two_pow hk.le, by decide, fun s hc => ⟨fun h0 => ?_, fun h0 => ?_⟩, fun _ _ _ _ => rfl⟩
  · rintro s b hodd rfl hb
    obtain ⟨k, hk, hacc, hexec⟩ := exec_c64Bounded_of_odd s hodd fun h => hb (by rw [h]; rfl)
    exact ⟨k, hk, hacc, fun hthr => hacc.eq_zero_of_thr_eq_zero hthr, hexec⟩
  · have := two_mul_thresholdNat_lt hpos hlt
    omega
  · have hdraw : bounded (drawCombined 9 7) drawLimit64 10 (0xcb857df24a6c76f8, 0xc28fa16a64abf96f) =
        some (9, 0x96fd248dc26df1a1, 0xad3a724d2493e98a) := by decide
    rw [exec_c64Bounded, hc, h0, hdraw]
    exact ⟨_, rfl, rfl⟩
  · have hdraw : bounded (drawCombined 9 7) drawLimit64 0x8000000000000001 (0xcb857df24a6c76f8, 0xc28fa16a64abf96f) =
        some (0x5b86a92210b46387, 0x86cd86da1e8cfce4, 0xbc7fa6f776024cb3) := by decide
    rw [exec_c64Bounded, hc, h0, hdraw]
    exact ⟨_, rfl, rfl⟩

/-- Settles O18: the answer is a remainder modulo the bound; each fast command puts each half's next state together from
that half and the operands. -/
theorem c64BoundedInRangeAndFastHalvesIndependent : Obligations.C64BoundedInRangeAndFastHalvesIndependent := by
  refine ⟨fun s t h hb => exec_c64Bounded_res0_lt h hb, fun b _ hlt => dvd_accepted hlt, fun i hi s x => ?_⟩
  obtain rfl | rfl | rfl : i = .c64Next ∨ i = .c64Jump ∨ i = .c64JumpBack := by simpa using hi
  · exact ⟨_, _, _, exec_c64Next s, exec_c64Next _, exec_c64Next _, rfl, rfl⟩
  · exact ⟨_, _, _, exec_c64Jump s, exec_c64Jump _, exec_c64Jump _, rfl, rfl⟩
  · exact ⟨_, _, _, exec_c64JumpBack s, exec_c64JumpBack _, exec_c64JumpBack _, rfl, rfl⟩

end Sys2Proof.Machine
end

section
/-! PROOFS. The statements of 60_exceptions.md: what recording an interface error does, what clears it, and that no run of a
legal state stops. -/

namespace Sys2Proof.Machine

/-! ### Legal runs go on (60_exceptions.md rule R104) -/

/-- Settles O54: by induction on the number of steps; each one answers, with a state that meets the invariant and a host
that still keeps the contract. -/
theorem legalRunsNeverStop : Obligations.LegalRunsNeverStop := by
  intro s hinv hok n
  induction n generalizing s with
  | zero => exact ⟨s, rfl⟩
  | succ n ih =>
    obtain ⟨u, hu⟩ := exists_step_eq_next hinv hok
    obtain ⟨t, ht⟩ := ih u (stepKeepsTheInvariant s u hinv hu) (hok.step hu)
    exact ⟨t, (run_succ_of_step n hu).trans ht⟩

/-! ### Recording an error (60_exceptions.md rules R106, R107) -/

section recording

variable {s t : State}

/-- The first error since the last clear is recorded. -/
theorem State.recordError_of_no_err (e : ErrorCode) (h : s.status.err = false) :
    s.recordError e = { s with status := ⟨true, e.code⟩ } :=
  if_neg (by simp [h])

/-- A later error changes nothing. -/
theorem State.recordError_of_err (e : ErrorCode) (h : s.status.err = true) : s.recordError e = s :=
  if_pos h

/-- Of all host writes, only the write-1-to-clear of `STATUS` changes a recorded error. -/
theorem HostWrites.status_of_err {r : Reg} {v : Word} (h : HostWrites r v s t) (herr : s.status.err = true) :
    t.status = s.status ∨ (r = .status ∧ clearsError v = true ∧ t.status = ⟨false, 0⟩) := by
  cases h
  case cleared hr hv => exact .inr ⟨hr, hv, rfl⟩
  case illegal | dropped => exact .inl (by rw [State.recordError_of_err _ herr])
  all_goals exact .inl rfl

/-- Of all host accesses, only that write does. -/
theorem hostStep_status_of_err (h : hostStep s = .next t) (herr : s.status.err = true) :
    t.status = s.status ∨
      (t.status = ⟨false, 0⟩ ∧ ∃ v rest, s.program = .write 64 0x08 v :: rest ∧ v.getLsbD 1 = true) := by
  obtain ⟨-, rfl⟩ | ⟨width, off, v, rest, r, hprog, hr, rfl⟩ | ⟨_, _, rest, r, -, -, rfl⟩ |
    ⟨rest, -, ⟨-, rfl⟩ | ⟨-, rfl⟩⟩ := hostStep_next_cases s t h
  · exact .inl rfl
  · refine ((hostWrite_writes r v s).status_of_err herr).imp_right ?_
    rintro ⟨rfl, hv, hstatus⟩
    obtain ⟨rfl, rfl⟩ := (accessTarget_eq_some_iff width off .status).1 hr
    exact ⟨hstatus, v, rest, hprog, hv⟩
  · exact .inl (hostRead_status r s)
  · exact .inl rfl
  · exact .inl rfl

/-- The block's step leaves the status and the agents around the block as they were. -/
theorem blockStep_frame (h : blockStep s = .next t) :
    t.status = s.status ∧ t.program = s.program ∧ t.turns = s.turns ∧ t.reads = s.reads ∧ t.fresh = s.fresh := by
  obtain ⟨-, rfl⟩ | ⟨_, _, u, -, -, hu, rfl⟩ := blockStep_next_cases s t h
  · exact ⟨rfl, rfl, rfl, rfl, rfl⟩
  · obtain ⟨-, hstatus, -, -, -, -, -, hagents⟩ := exec_frame hu
    exact ⟨hstatus, hagents⟩

/-- The block's step does not read the status: with other status bits it has the same outcome, but for those bits. -/
theorem blockStep_withStatus (s : State) (st : Status) :
    blockStep { s with status := st } = mapNext (fun t => { t with status := st }) (blockStep s) := by
  refine (blockStep_withAgents s st s.program s.turns s.reads s.fresh).trans ?_
  cases hb : blockStep s with
  | next t =>
    obtain ⟨-, hprogram, hturns, hreads, hfresh⟩ := blockStep_frame hb
    simp only [mapNext, State.withAgents, ← hprogram, ← hturns, ← hreads, ← hfresh]
  | fault f => rfl
  | refused r => rfl

end recording

/-- Settles O45: the write is the recording of an error, which changes the status at most. -/
theorem illegalCommandOnlyRecordsTheError : Obligations.IllegalCommandOnlyRecordsTheError := by
  intro s v hp hv
  rw [hostWrite_cmd_of_illegal v s hp hv]
  have hpending : (s.recordError .illegalCmd).pending = none := (State.recordError_pending s _).trans hp
  exact ⟨rfl, hpending, (State.busy_eq_false_iff _).2 hpending, State.recordError_of_no_err .illegalCmd,
    State.recordError_of_err .illegalCmd⟩

/-- Settles O46: a dropped write records an error, which changes the status alone, and the block's step does not read the
status. -/
theorem busyWriteIsDropped : Obligations.BusyWriteIsDropped := by
  intro s w v hp
  obtain ⟨-, -, hbusy, -, hclear, hkeep, hreadOnly⟩ := hostWriteHasItsEffect s v
  refine ⟨fun r hr => ?_, List.forall_mem_cons.2 ⟨?_, fun r hr => .inl (by rw [hreadOnly r hr])⟩⟩
  · rw [hbusy w hp r hr]
    refine ⟨State.recordError_of_no_err .busyWrite, State.recordError_of_err .busyWrite, ?_⟩
    exact (congrArg blockStep (State.recordError_eq s .busyWrite)).trans (blockStep_withStatus s _)
  · cases hv : v.getLsbD 1 with
    | false => exact .inl (by rw [hkeep hv])
    | true => exact .inr (by rw [hclear hv])

/-- Settles O47: recording by whether an error is recorded; a step by whose turn it is. -/
theorem firstErrorIsKeptUntilCleared : Obligations.FirstErrorIsKeptUntilCleared := by
  refine ⟨fun s e => State.recordError_of_no_err e, fun s e => State.recordError_of_err e, fun s t herr h => ?_⟩
  rw [step_eq_takeTurn] at h
  obtain ⟨hturn, hh⟩ | ⟨-, hb⟩ | ⟨hturn, rfl⟩ := takeTurn_next_cases _ _ t h
  · exact (hostStep_status_of_err hh herr).imp_right fun hcleared => .inr ⟨hturn, hcleared⟩
  · exact .inl (blockStep_frame hb).1
  · exact .inr (.inl ⟨hturn, rfl⟩)

end Sys2Proof.Machine
end

section
/-! PROOFS. The statements of 70_reset_and_hazards.md: the fixed order of issuing a command and polling, and the state
after reset. -/

namespace Sys2Proof.Machine

/-! ### A command issued and polled (70_reset_and_hazards.md rule R127) -/

section issue

variable {s t : State} {i : Instr} {rest : List HostOp}

/-- Where no turn is fixed and none is pending, a step is the host's access. -/
theorem step_of_idle (hts : s.turns = []) (hp : s.pending = none) : step s = hostStep s := by
  rw [step_of_host_turn (.inr ⟨hts, rfl, hp⟩), ← hts]

/-- Where no turn is fixed and a command is pending, a step is the block's. -/
theorem step_of_pending (hts : s.turns = []) (hp : s.pending ≠ none) : step s = blockStep s := by
  rw [step_of_block_turn (.inr ⟨hts, rfl, hp⟩), ← hts]

/-- A command's own word decodes to it (30_encoding.md rule R60). -/
theorem decode_encode (i : Instr) : decode (encode i) = .command i := (decode_eq_command_iff _ i).2 rfl

/-- A command's own word is legal. -/
theorem legal_encode (i : Instr) : legal (encode i) = true := (legal_eq_true_iff _).2 ⟨i, decode_encode i⟩

/-- The host's write of a command's word with none pending accepts the command. -/
theorem step_of_issue (hts : s.turns = []) (hp : s.pending = none)
    (hprog : s.program = .write 64 0x00 (encode i) :: rest) :
    step s = .next { s with cmd := encode i, pending := some (encode i), program := rest } := by
  rw [step_of_idle hts hp, hostStep_of_write hprog (r := .cmd) rfl, hostWrite_cmd_of_legal _ s hp (legal_encode i)]
  rfl

/-- The block's step runs a pending command's own word to completion. -/
theorem step_of_pending_encode (hts : s.turns = []) (hp : s.pending = some (encode i)) (h : exec i s = .next t) :
    step s = .next t.complete := by
  rw [step_of_pending hts (by simp [hp]), blockStep_of_command s _ i hp (decode_encode i), h]
  rfl

/-- A poll with none pending ends. -/
theorem step_of_poll_idle (hts : s.turns = []) (hp : s.pending = none) (hprog : s.program = .poll :: rest) :
    step s = .next { s with program := rest } := by
  rw [step_of_idle hts hp, hostStep_of_poll hprog, if_neg]
  simp [State.busy, hp]

end issue

/-- Settles O55: the host's write accepts the command, the block's step executes it and leaves the host's data as
they were, the poll finds none pending and ends; with none pending the read returns the register. -/
theorem issueAndPollRunTheCommand : Obligations.IssueAndPollRunTheCommand := by
  intro s t i rest hts hp hprog h
  obtain ⟨-, -, -, -, -, -, -, hprogram, hturns, -⟩ := exec_frame h
  have hissue := step_of_issue hts hp hprog
  have hblock : step { s with cmd := encode i, pending := some (encode i), program := .poll :: rest }
      = .next t.complete :=
    step_of_pending_encode hts rfl h
  have hpoll : step t.complete = .next { t with pending := none, program := rest } :=
    step_of_poll_idle (hturns.trans hts) rfl hprogram
  exact ⟨(run_succ_of_step (M := Sys2Proof.core) 2 hissue).trans (run_two_of_steps hblock hpoll),
    hostRead_of_idle .res0 _ rfl⟩

/-! ### The state after reset (70_reset_and_hazards.md rules R124, R125) -/

/-- After reset `CMD` holds the 0 of reset, with no command pending. -/
theorem cmdOk_reset : State.reset.CmdOk := ⟨.inl rfl, fun _ h => nomatch h⟩

/-- After reset no error is recorded. -/
theorem statusOk_reset : State.reset.StatusOk := .inl ⟨rfl, rfl⟩

/-- The reset state meets the invariant. -/
theorem inv_reset : State.reset.Inv := ⟨oddIncs_reset, cmdOk_reset, statusOk_reset⟩

/-- A host without a statement or a turn keeps the contract. -/
theorem hostOk_reset : State.reset.HostOk := ⟨List.forall_mem_nil _, List.not_mem_nil⟩

/-- Settles O57: the three parts of the invariant, `STATUS` by evaluation, and the contract of a host with nothing to do. -/
theorem resetMeetsTheInvariant : Obligations.ResetMeetsTheInvariant := ⟨inv_reset, rfl, rfl, hostOk_reset⟩

end Sys2Proof.Machine
end
